-- ==== Sys2Proof/Word.lean ====
section
/-! DEFINITION. The word types of the CORE. Every register, chain word and message word has 64 bits
(10_state.md R22, 00_scope.md R6); the block buffer and the key are bytes. -/

namespace Sys2Proof

/-- A 64-bit register or chain word. -/
abbrev Word := BitVec 64

/-- One byte of the block buffer, of the key or of a bus lane. -/
abbrev Byte := BitVec 8

end Sys2Proof
end

