-- ==== Sys2Proof/Config.lean ====
section
/-! DEFINITION. The parameters of the CORE that 00_scope.md R6 fixes. The parameters it leaves open, `BASE` and
`NINST`, are no constants here: `BASE` is a field of `Machine.State` (every claim holds for each of its values) and
`NINST` is the length of `Machine.System.slots`. The latency is not modelled (70_reset_and_hazards.md R232). The spec
leaves no result of a command undefined, so there is no free value and no constant without a body. -/

namespace Sys2Proof.Config

/-- Bytes of the register window (00_scope.md R6, 20_memory.md R60). -/
abbrev windowSize : Nat := 0x1000

/-- Bytes of the one access width the CORE accepts (20_memory.md R65). -/
abbrev busBytes : Nat := 8

/-- Bytes of a block (00_scope.md R6). -/
abbrev blockBytes : Nat := 128

/-- The longest output of a session, in bytes (00_scope.md R6). -/
abbrev maxOutlen : Nat := 64

/-- The longest key of a session, in bytes (00_scope.md R6). -/
abbrev maxKeylen : Nat := 64

/-- The most bytes one ABSORB appends (30_encoding.md R81, format L). -/
abbrev maxAbsorb : Nat := 8

end Sys2Proof.Config
end

