-- ==== Sys2Proof/Syntax.lean ====
section
/-! DEFINITION. The commands of the CORE, one constructor for each row of the opcode map (30_encoding.md R83). An operand
field keeps the width of its field in the command word (R81); which of its values are legal is `Instr.WellFormed`. -/

namespace Sys2Proof

/-- The two counter strategies (42_counter.md R141, R142): STRAT of INIT, V of CTRINC. -/
inductive Strategy where
  /-- field value 0, the branch variant -/
  | sequential
  /-- field value 1, the flag-carry variant -/
  | parallel
deriving DecidableEq, Repr

/-- The two forms of the endian converter (44_endian.md R161): IP of ENDIAN. -/
inductive EndianForm where
  /-- IP = 0: the result goes to ECV_OUT -/
  | value
  /-- IP = 1: the result overwrites ECV_IN -/
  | inPlace
deriving DecidableEq, Repr

/-- A decoded command (30_encoding.md R83). -/
inductive Instr where
  /-- INIT, opcode 0x01, format I (41_session.md R122) -/
  | init (outlen keylen : BitVec 7) (strat : Strategy)
  /-- ABSORB, opcode 0x02, format L (41_session.md R124) -/
  | absorb (len : BitVec 4)
  /-- FINAL, opcode 0x03, format N (41_session.md R127) -/
  | final
  /-- CMP, opcode 0x04, format N (43_compare.md R151) -/
  | cmp
  /-- CMPD, opcode 0x05, format N (43_compare.md R153) -/
  | cmpd
  /-- ENDIAN, opcode 0x06, format B (44_endian.md R161) -/
  | endian (form : EndianForm)
  /-- CTRINC, opcode 0x07, format B (42_counter.md R143) -/
  | ctrinc (variant : Strategy)
deriving DecidableEq, Repr

end Sys2Proof
end

