-- ==== Sys2Proof/WellFormed.lean ====
section
/-! DEFINITION. The field ranges of 30_encoding.md R81 and R84: OUTLEN 1..64, KEYLEN 0..64, LEN 0..8. A command outside
them has no meaning but ILLEGAL_CMD, so no command word decodes to one. -/

namespace Sys2Proof

/-- The command's fields are in the ranges 30_encoding.md R81 calls legal. -/
def Instr.wellFormed : Instr → Bool
  | .init outlen keylen _ =>
    1 ≤ outlen.toNat && outlen.toNat ≤ Config.maxOutlen && keylen.toNat ≤ Config.maxKeylen
  | .absorb len => len.toNat ≤ Config.maxAbsorb
  | .final => true
  | .cmp => true
  | .cmpd => true
  | .endian _ => true
  | .ctrinc _ => true

/-- `Instr.wellFormed` as a proposition. -/
abbrev Instr.WellFormed (i : Instr) : Prop := i.wellFormed = true

end Sys2Proof
end

