-- ==== Sys2Proof/Decode.lean ====
section
/-! DEFINITION. The command word: its decoder, total and refusing by name (30_encoding.md R80, R84, R85), its encoder
(R81), and the byte-order helpers a word is laid out with (20_memory.md R63, 00_scope.md R8). -/

namespace Sys2Proof

/-! ### Byte order -/

/-- Byte `k` of a register: bits `[8k+7:8k]` (20_memory.md R63). -/
def byteLane (w : Word) (k : Nat) : Byte := w.extractLsb' (8 * k) 8

/-- The eight bytes of a register, byte 0 first (20_memory.md R63). -/
def lanes (w : Word) : Vector Byte 8 := Vector.ofFn fun k => byteLane w k.val

/-- Places a field at bit `lo` of a word: `zext_64(v) << lo`. -/
def field {n : Nat} (v : BitVec n) (lo : Nat) : Word := v.setWidth 64 <<< lo

/-- `LE64(b[0..7])`, the sum of `b[k] << 8k`: the little-endian value of eight bytes (00_scope.md R8). The lanes do not
overlap, so the sum is an OR. -/
def le64 (b : Vector Byte 8) : Word :=
  field b[0] 0 ||| field b[1] 8 ||| field b[2] 16 ||| field b[3] 24 ||| field b[4] 32 ||| field b[5] 40 |||
    field b[6] 48 ||| field b[7] 56

/-- `BE64(b[0..7])`, the sum of `b[k] << 8(7-k)`: the big-endian value of eight bytes (00_scope.md R8; 44_endian.md
R160). -/
def be64 (b : Vector Byte 8) : Word :=
  field b[0] 56 ||| field b[1] 48 ||| field b[2] 40 ||| field b[3] 32 ||| field b[4] 24 ||| field b[5] 16 |||
    field b[6] 8 ||| field b[7] 0

/-- `bswap64(x)`: byte `k` of the result is byte `7-k` of `x` (00_scope.md R8). -/
def bswap64 (x : Word) : Word := be64 (lanes x)

/-! ### Field codes -/

/-- STRAT and V: 0 sequential, 1 parallel (30_encoding.md R81). -/
def Strategy.code : Strategy → BitVec 1
  | .sequential => 0
  | .parallel => 1

/-- The strategy a STRAT or V bit selects (30_encoding.md R81). -/
def Strategy.ofBit (b : BitVec 1) : Strategy := if b = 0 then .sequential else .parallel

/-- IP: 0 value form, 1 in-place form (30_encoding.md R81). -/
def EndianForm.code : EndianForm → BitVec 1
  | .value => 0
  | .inPlace => 1

/-- The form an IP bit selects (30_encoding.md R81). -/
def EndianForm.ofBit (b : BitVec 1) : EndianForm := if b = 0 then .value else .inPlace

/-- The opcode of a command (30_encoding.md R83). -/
def Instr.opcode : Instr → Byte
  | .init _ _ _ => 0x01
  | .absorb _ => 0x02
  | .final => 0x03
  | .cmp => 0x04
  | .cmpd => 0x05
  | .endian _ => 0x06
  | .ctrinc _ => 0x07

/-! ### Decoding -/

/-- Why a word is no command (30_encoding.md R84). The CORE reports all of them as ILLEGAL_CMD. -/
inductive Illegal where
  /-- `w[63:32]` is not 0 -/
  | upperHalf
  /-- opcode 0x00 or 0x08..0xFF -/
  | opcode
  /-- a reserved bit of the command's format is set -/
  | reservedBit
  /-- OUTLEN = 0 or OUTLEN > 64 -/
  | outlenRange
  /-- KEYLEN > 64 -/
  | keylenRange
  /-- LEN > 8 -/
  | lenRange
  /-- the bytes given are not the eight of a command word (never met on the bus: an access of another width is a
  BusError, 20_memory.md R65) -/
  | notOneWord
deriving DecidableEq, Repr

/-- `Decode(w)` of 30_encoding.md R85. -/
def decode (w : Word) : Except Illegal Instr :=
  if w.extractLsb' 32 32 ≠ 0 then .error .upperHalf
  else match (w.extractLsb' 0 8).toNat with
    | 0x01 =>
      if w.extractLsb' 25 7 ≠ 0 ∨ w.extractLsb' 23 1 ≠ 0 ∨ w.extractLsb' 15 1 ≠ 0 then .error .reservedBit
      else if (w.extractLsb' 8 7).toNat < 1 ∨ Config.maxOutlen < (w.extractLsb' 8 7).toNat then .error .outlenRange
      else if Config.maxKeylen < (w.extractLsb' 16 7).toNat then .error .keylenRange
      else .ok (.init (w.extractLsb' 8 7) (w.extractLsb' 16 7) (Strategy.ofBit (w.extractLsb' 24 1)))
    | 0x02 =>
      if w.extractLsb' 12 20 ≠ 0 then .error .reservedBit
      else if Config.maxAbsorb < (w.extractLsb' 8 4).toNat then .error .lenRange
      else .ok (.absorb (w.extractLsb' 8 4))
    | 0x03 => if w.extractLsb' 8 24 ≠ 0 then .error .reservedBit else .ok .final
    | 0x04 => if w.extractLsb' 8 24 ≠ 0 then .error .reservedBit else .ok .cmp
    | 0x05 => if w.extractLsb' 8 24 ≠ 0 then .error .reservedBit else .ok .cmpd
    | 0x06 =>
      if w.extractLsb' 9 23 ≠ 0 then .error .reservedBit
      else .ok (.endian (EndianForm.ofBit (w.extractLsb' 8 1)))
    | 0x07 =>
      if w.extractLsb' 9 23 ≠ 0 then .error .reservedBit
      else .ok (.ctrinc (Strategy.ofBit (w.extractLsb' 8 1)))
    | _ => .error .opcode

/-- The command the eight bytes of a bus write to CMD carry, byte 0 in lane 0 (20_memory.md R63). Total on any bytes. -/
def decodeBytes (bytes : List Byte) : Except Illegal Instr :=
  match bytes with
  | [b0, b1, b2, b3, b4, b5, b6, b7] => decode (le64 #v[b0, b1, b2, b3, b4, b5, b6, b7])
  | _ => .error .notOneWord

/-- The command a row of the opcode table decodes to: `w` holds the instruction's low `nbits` bits, every bit above
them is 0. A value of more than 64 bits is no command word (30_encoding.md R80). -/
def decodeTableWord (nbits w : Nat) : Option Instr :=
  if w % 2 ^ nbits < 2 ^ 64 then
    match decode (BitVec.ofNat 64 (w % 2 ^ nbits)) with
    | .ok i => some i
    | .error _ => none
  else none

/-! ### Encoding -/

/-- The command word of a command: OPCODE in bits 7:0 and the fields where 30_encoding.md R81 puts them. -/
def encode (i : Instr) : Word :=
  match i with
  | .init outlen keylen strat =>
    field i.opcode 0 ||| field outlen 8 ||| field keylen 16 ||| field strat.code 24
  | .absorb len => field i.opcode 0 ||| field len 8
  | .final => field i.opcode 0
  | .cmp => field i.opcode 0
  | .cmpd => field i.opcode 0
  | .endian form => field i.opcode 0 ||| field form.code 8
  | .ctrinc variant => field i.opcode 0 ||| field variant.code 8

/-- The eight bytes of a command word in bus order (20_memory.md R63). -/
def encodeBytes (i : Instr) : List Byte := (lanes (encode i)).toList

end Sys2Proof
end

