-- ==== Sys2Proof/Machine/State.lean ====
section
/-! DEFINITION. The state of one CORE instance (10_state.md R21, R22), the host accesses that drive it, and the state
after reset (70_reset_and_hazards.md R220). -/

namespace Sys2Proof.Machine

/-- Why a step stops with a fault. -/
inductive Fault where
  /-- A bus access that is not 64 bits wide at an offset that is a multiple of 8 (60_exceptions.md R202). Raised by
  `busCycle`. Safe: the CORE keeps its state (`System.stepAt`), and what the host's platform does next is outside the
  model. -/
  | busError (addr : Nat)
deriving DecidableEq, Repr

/-- Why a step is refused. -/
inductive Refusal where
  /-- An instruction without a meaning. No arm of `exec` answers it. Safe. -/
  | notModelled (mnemonic : String)
  /-- An access by an agent that is not the instance's one host (60_exceptions.md R210: "a model must refuse such a
  configuration"). Raised by `busCycle`. Safe. -/
  | twoAgents (agent : Nat)
  /-- An access to an address outside the register window, whose decoding 20_memory.md R73 leaves to the platform.
  Raised by `busCycle`. Safe. -/
  | outsideWindow (addr : Nat)
deriving DecidableEq, Repr

/-- The session controller's state (10_state.md R21). Code 3 never occurs (R24, R42). -/
inductive SState where
  | init
  | absorbing
  | finalized
deriving DecidableEq, Repr

/-- The error codes (60_exceptions.md R200). Codes 0x03..0xFF never occur. -/
inductive ErrCode where
  | ok
  | illegalCmd
  | invalidState
deriving DecidableEq, Repr

/-- The result of the last comparison (10_state.md R24, field CMP). -/
inductive CmpResult where
  | eq
  | lt
  | gt
  /-- no comparison since reset -/
  | noComparison
deriving DecidableEq, Repr

/-- The registers of the window (10_state.md R22). The reserved offsets are no registers. -/
inductive Reg where
  | id
  | cmd
  | status
  | din
  | ecvIn
  | ecvOut
  | ctrN
  | ctrLo
  | ctrHi
  | key (i : Fin 8)
  | dout (i : Fin 8)
  | h (i : Fin 8)
  | t0
  | t1
  | ccount
  | buf (i : Fin 16)
  | cmpa (i : Fin 4)
  | thr (i : Fin 4)
deriving DecidableEq, Repr

/-- One host access: its byte address, its width in bytes and, for a write, the value on the bus (00_scope.md R9).
The value of an access of another width than 8 bytes is never looked at. -/
inductive BusAccess where
  | read (addr width : Nat)
  | write (addr width : Nat) (data : Word)
deriving DecidableEq, Repr

/-- What reaches an instance from outside, in the order it arrives. -/
inductive Input where
  /-- an access by the bus master `agent` -/
  | bus (agent : Nat) (access : BusAccess)
  /-- the reset input, asserted between accesses, or while the access `inFlight` is in progress, which is then
  abandoned (70_reset_and_hazards.md R221) -/
  | reset (inFlight : Option BusAccess)
deriving DecidableEq, Repr

/-- What the last completed access answered. -/
inductive Reply where
  /-- no access since reset -/
  | none
  /-- a read returned this value (20_memory.md R61) -/
  | data (value : Word)
  /-- a write completed (20_memory.md R62, R66) -/
  | written
deriving DecidableEq, Repr

/-- One CORE instance and its host. -/
structure State where
  /-- `BASE`, the byte address of the window (00_scope.md R6). Constant. -/
  base : Nat
  /-- the number of the bus master that is this instance's one host (20_memory.md R67). Constant. -/
  owner : Nat
  /-- the chain `h[0..7]` (R21) -/
  h : Vector Word 8
  /-- the session's byte counter `{t_hi, t_lo}` (R21) -/
  t : BitVec 128
  /-- the block buffer `buf[0..127]` (R21) -/
  buf : Vector Byte 128
  /-- the number of bytes in `buf`, 0..128, stored in 8 bits (R21) -/
  fill : BitVec 8
  /-- the session controller's state (R21) -/
  sstate : SState
  /-- the counter strategy latched by INIT (R21, R38) -/
  strat : Strategy
  /-- the output length latched by INIT (R21, R38) -/
  outlen : BitVec 7
  /-- the key length latched by INIT (R21, R38) -/
  keylen : BitVec 7
  /-- compressions since the last INIT (R21, R30) -/
  ccount : Word
  /-- the error code of the last command (R21) -/
  err : ErrCode
  /-- the result of the last comparison (R21) -/
  cmp : CmpResult
  /-- the last comparison found A < B (R21) -/
  below : Bool
  /-- the digest output words DOUT0..DOUT7 (R21, R28) -/
  dout : Vector Word 8
  /-- the endian converter's value-form result ECV_OUT (R21, R32) -/
  ecvOut : Word
  /-- DIN (R26) -/
  din : Word
  /-- ECV_IN (R31) -/
  ecvIn : Word
  /-- CTR_N (R35) -/
  ctrN : Word
  /-- CTR_LO (R35) -/
  ctrLo : Word
  /-- CTR_HI (R35) -/
  ctrHi : Word
  /-- KEY0..KEY7 (R27) -/
  key : Vector Word 8
  /-- CMPA0..CMPA3, index 0 the most significant limb (R34) -/
  cmpa : Vector Word 4
  /-- THR0..THR3, index 0 the most significant limb (R33) -/
  thr : Vector Word 4
  /-- the model's own: what the host goes on to do, in program order (20_memory.md R67) -/
  pending : List Input
  /-- the model's own: what the last completed access answered -/
  reply : Reply
deriving DecidableEq, Repr

/-- The instance at `base` with the host `owner`, right after reset (70_reset_and_hazards.md R220), its host about to
do nothing. -/
def State.resetAt (base owner : Nat) : State where
  base := base
  owner := owner
  h := Vector.replicate 8 0
  t := 0
  buf := Vector.replicate 128 0
  fill := 0
  sstate := .init
  strat := .sequential
  outlen := 0
  keylen := 0
  ccount := 0
  err := .ok
  cmp := .noComparison
  below := false
  dout := Vector.replicate 8 0
  ecvOut := 0
  din := 0
  ecvIn := 0
  ctrN := 0
  ctrLo := 0
  ctrHi := 0
  key := Vector.replicate 8 0
  cmpa := Vector.replicate 4 0
  thr := Vector.replicate 4 0
  pending := []
  reply := .none

/-- The machine right after reset. DESIGN CHOICE: the window's base and the host's number, which the spec leaves open,
are 0 here (notes/assumptions/2.md, 3.md); every other value is the spec's. -/
def State.reset : State := State.resetAt 0 0

end Sys2Proof.Machine
end

