-- ==== Sys2Proof/Machine/Ops.lean ====
section
/-! DEFINITION. The operations all commands share: how a command ends (60_exceptions.md R200, R201), the reset input
(70_reset_and_hazards.md R220, R221), and the words and bytes of the buffer (40_compression.md R108). -/

namespace Sys2Proof.Machine

/-- `err <- code`. -/
def State.setErr (code : ErrCode) (s : State) : State := { s with err := code }

/-- `fail(code)`: the command ends; ERR takes the code; nothing else changes (60_exceptions.md R201). This is the
CORE's whole "exception entry" (R206); the return from it is the next command. -/
def fail (code : ErrCode) (s : State) : Host.Outcome State Fault Refusal := .next (s.setErr code)

/-- The end of a command that succeeded: `err <- OK` (60_exceptions.md R200). -/
def succeed (s : State) : Host.Outcome State Fault Refusal := .next (s.setErr .ok)

/-- The reset input: every element takes its reset value (70_reset_and_hazards.md R220). The window does not move, and
the host, which is not reset, goes on with its program. -/
def State.applyReset (s : State) : State := { State.resetAt s.base s.owner with pending := s.pending }

/-- `t_lo = t[63:0]` (10_state.md R30). -/
def State.tLo (s : State) : Word := s.t.extractLsb' 0 64

/-- `t_hi = t[127:64]` (10_state.md R30). -/
def State.tHi (s : State) : Word := s.t.extractLsb' 64 64

/-- `LE64(buf[8i..8i+7])`, message word `i` and the value of BUFi (40_compression.md R108, 10_state.md R30). -/
def bufWord (buf : Vector Byte 128) (i : Fin 16) : Word :=
  le64 (Vector.ofFn fun k : Fin 8 => buf[8 * i.val + k.val])

/-- `m(buf)`, the message block F is given (40_compression.md R108). -/
def messageBlock (buf : Vector Byte 128) : Vector Word 16 := Vector.ofFn (bufWord buf)

/-- `buf[j] <- 0` for `j` in `n..127` (41_session.md R127). -/
def zeroFrom (n : Nat) (buf : Vector Byte 128) : Vector Byte 128 :=
  Vector.ofFn fun j : Fin 128 => if j.val < n then buf[j] else 0

end Sys2Proof.Machine
end

