-- ==== Sys2Proof/Machine/Flags.lean ====
section
/-! DEFINITION. The STATUS register: the codes of its fields, its assembly (10_state.md R24), and the one operation that
writes the comparison flags (R41). -/

namespace Sys2Proof.Machine

/-- The code of SSTATE (10_state.md R24). -/
def SState.code : SState → BitVec 2
  | .init => 0
  | .absorbing => 1
  | .finalized => 2

/-- The code of ERR (60_exceptions.md R200). -/
def ErrCode.code : ErrCode → BitVec 8
  | .ok => 0x00
  | .illegalCmd => 0x01
  | .invalidState => 0x02

/-- The code of CMP (10_state.md R24). -/
def CmpResult.code : CmpResult → BitVec 2
  | .eq => 0
  | .lt => 1
  | .gt => 2
  | .noComparison => 3

/-- STATUS, assembled from the state (10_state.md R24). -/
def State.statusWord (s : State) : Word :=
  field s.sstate.code 0 ||| field s.strat.code 2 ||| field s.err.code 8 ||| field s.fill 16 |||
    field s.cmp.code 24 ||| field (BitVec.ofBool s.below) 26 ||| field s.outlen 32 ||| field s.keylen 40

/-- `cmp <- r; below <- (r = LT) ? 1 : 0` (43_compare.md R151, R153). -/
def State.setComparison (r : CmpResult) (s : State) : State :=
  { s with cmp := r, below := decide (r = .lt) }

end Sys2Proof.Machine
end

