-- ==== Sys2Proof/Machine/Operands.lean ====
section
/-! DEFINITION. The register window (10_state.md R22, 20_memory.md R61 to R63) and the implicit operands of the commands
(30_encoding.md R82). -/

namespace Sys2Proof.Machine

/-! ### The register map -/

/-- The constant ID reads (10_state.md R23). -/
def idWord : Word := 0x00000001B2B00256

/-- The offset of a register in the window (10_state.md R22). -/
def Reg.offset : Reg → Nat
  | .id => 0x000
  | .cmd => 0x008
  | .status => 0x010
  | .din => 0x020
  | .ecvIn => 0x028
  | .ecvOut => 0x030
  | .ctrN => 0x038
  | .ctrLo => 0x040
  | .ctrHi => 0x048
  | .key i => 0x080 + 8 * i.val
  | .dout i => 0x0C0 + 8 * i.val
  | .h i => 0x100 + 8 * i.val
  | .t0 => 0x140
  | .t1 => 0x148
  | .ccount => 0x150
  | .buf i => 0x180 + 8 * i.val
  | .cmpa i => 0x200 + 8 * i.val
  | .thr i => 0x220 + 8 * i.val

/-- The registers of the window, in the order of 10_state.md R22. -/
def allRegs : List Reg :=
  [.id, .cmd, .status, .din, .ecvIn, .ecvOut, .ctrN, .ctrLo, .ctrHi] ++ (List.finRange 8).map .key ++
    (List.finRange 8).map .dout ++ (List.finRange 8).map .h ++ [.t0, .t1, .ccount] ++ (List.finRange 16).map .buf ++
    (List.finRange 4).map .cmpa ++ (List.finRange 4).map .thr

/-- The register at an offset; `none` at a reserved offset (10_state.md R22, R36). -/
def regAt (off : Nat) : Option Reg := allRegs.find? fun r => r.offset == off

/-- The value a read of a register returns (10_state.md R23 to R35). -/
def State.readReg (s : State) : Reg → Word
  | .id => idWord
  | .cmd => 0
  | .status => s.statusWord
  | .din => s.din
  | .ecvIn => s.ecvIn
  | .ecvOut => s.ecvOut
  | .ctrN => s.ctrN
  | .ctrLo => s.ctrLo
  | .ctrHi => s.ctrHi
  | .key i => s.key[i]
  | .dout i => s.dout[i]
  | .h i => s.h[i]
  | .t0 => s.tLo
  | .t1 => s.tHi
  | .ccount => s.ccount
  | .buf i => bufWord s.buf i
  | .cmpa i => s.cmpa[i]
  | .thr i => s.thr[i]

/-- A host write of a register other than CMD: an RW register takes the value, an RO register ignores it
(20_memory.md R62). CMD holds nothing; what a write to it does is `writeOffset`. -/
def State.writeReg (s : State) (r : Reg) (v : Word) : State :=
  match r with
  | .id => s
  | .cmd => s
  | .status => s
  | .din => { s with din := v }
  | .ecvIn => { s with ecvIn := v }
  | .ecvOut => s
  | .ctrN => { s with ctrN := v }
  | .ctrLo => { s with ctrLo := v }
  | .ctrHi => { s with ctrHi := v }
  | .key i => { s with key := s.key.set i v }
  | .dout _ => s
  | .h _ => s
  | .t0 => s
  | .t1 => s
  | .ccount => s
  | .buf _ => s
  | .cmpa i => { s with cmpa := s.cmpa.set i v }
  | .thr i => { s with thr := s.thr.set i v }

/-- The value at an offset that is a multiple of 8; a reserved offset reads 0 (20_memory.md R61, 10_state.md R36). -/
def State.readOffset (s : State) (off : Nat) : Word :=
  match regAt off with
  | some r => s.readReg r
  | none => 0

/-- The byte of the window at the byte address `addr`: lane `off mod 8` of the register that holds it (20_memory.md
R63). `none` outside the window. No access reads it alone (R65); it says where the bytes of a register lie. -/
def State.windowByte (s : State) (addr : Nat) : Option Byte :=
  if s.base ≤ addr ∧ addr < s.base + Config.windowSize then
    let off := addr - s.base
    some (byteLane (s.readOffset (off - off % 8)) (off % 8))
  else none

/-! ### Implicit operands of the commands -/

/-- Byte `k` of DIN, the k-th byte an ABSORB appends (10_state.md R26). -/
def State.dinByte (s : State) (k : Nat) : Byte := byteLane s.din k

/-- The bytes `ABSORB len` appends, in order (41_session.md R124). -/
def State.dinBytes (s : State) (len : Nat) : List Byte := (List.range len).map s.dinByte

/-- Key byte `j`: byte `j & 7` of KEY(`j >> 3`) (10_state.md R27). -/
def State.keyByte (s : State) (j : Fin 64) : Byte := byteLane s.key[j.val / 8] (j.val % 8)

/-- The zero-padded key block of a keyed INIT, and the empty buffer of an unkeyed one (41_session.md R122). -/
def State.keyBlock (s : State) (keylen : Nat) : Vector Byte 128 :=
  Vector.ofFn fun j : Fin 128 => if h : j.val < keylen ∧ j.val < 64 then s.keyByte ⟨j.val, h.2⟩ else 0

/-- Digest byte `j`: byte `j & 7` of DOUT(`j >> 3`) (10_state.md R28). -/
def State.digestByte (s : State) (j : Fin 64) : Byte := byteLane s.dout[j.val / 8] (j.val % 8)

/-- Limb `i` of the digest as CMPD compares it: `BE64` of digest bytes `8i..8i+7` (43_compare.md R153). -/
def State.digestLimb (s : State) (i : Fin 4) : Word := bswap64 s.dout[i.val]

/-- The digest as CMPD compares it: four limbs, the most significant first (43_compare.md R153). -/
def State.digestNumber (s : State) : Vector Word 4 := Vector.ofFn s.digestLimb

end Sys2Proof.Machine
end

