-- ==== Sys2Proof/Machine/Compare.lean ====
section
/-! DEFINITION. The 256-bit comparator: CMP and CMPD (43_compare.md). -/

namespace Sys2Proof.Machine

/-- The first unequal pair of limbs decides; no unequal pair is EQ (43_compare.md R150). -/
def cmpLimbs : List (Word × Word) → CmpResult
  | [] => .eq
  | (a, b) :: rest => if a < b then .lt else if b < a then .gt else cmpLimbs rest

/-- `Cmp256(A, B)`, limb 0 the most significant (43_compare.md R150). -/
def cmp256 (a b : Vector Word 4) : CmpResult :=
  cmpLimbs [(a[0], b[0]), (a[1], b[1]), (a[2], b[2]), (a[3], b[3])]

/-- CMP (43_compare.md R151). -/
def execCmp (s : State) : Host.Outcome State Fault Refusal :=
  succeed (s.setComparison (cmp256 s.cmpa s.thr))

/-- CMPD (43_compare.md R153). -/
def execCmpd (s : State) : Host.Outcome State Fault Refusal :=
  if s.sstate = .finalized then succeed (s.setComparison (cmp256 s.digestNumber s.thr))
  else fail .invalidState s

end Sys2Proof.Machine
end

