-- ==== Sys2Proof/Machine/Endian.lean ====
section
/-! DEFINITION. The endian converter (44_endian.md). -/

namespace Sys2Proof.Machine

/-- ENDIAN: the value form writes ECV_OUT, the in-place form overwrites ECV_IN (44_endian.md R161). -/
def execEndian (form : EndianForm) (s : State) : Host.Outcome State Fault Refusal :=
  match form with
  | .value => succeed { s with ecvOut := bswap64 s.ecvIn }
  | .inPlace => succeed { s with ecvIn := bswap64 s.ecvIn }

end Sys2Proof.Machine
end

