-- ==== Sys2Proof/Machine/Compression.lean ====
section
/-! DEFINITION. The compression function F (40_compression.md). PRESUMED where the rules say "from general knowledge": the
values of IV and SIGMA, the word order of the eight G operations and `v[8..15] = IV` are RFC 7693's, as R100, R101, R103 and
R104 state them (notes/assumptions/12.md). -/

namespace Sys2Proof.Machine

/-- `IV[0..7]` (40_compression.md R100). -/
def iv : Vector Word 8 := #v[
  0x6A09E667F3BCC908, 0xBB67AE8584CAA73B, 0x3C6EF372FE94F82B, 0xA54FF53A5F1D36F1,
  0x510E527FADE682D1, 0x9B05688C2B3E6C1F, 0x1F83D9ABFB41BD6B, 0x5BE0CD19137E2179]

/-- `SIGMA[0..11]`, one row for each round (40_compression.md R101). -/
def sigma : Vector (Vector (Fin 16) 16) 12 := #v[
  #v[0, 1, 2, 3, 4, 5, 6, 7, 8, 9, 10, 11, 12, 13, 14, 15],
  #v[14, 10, 4, 8, 9, 15, 13, 6, 1, 12, 0, 2, 11, 7, 5, 3],
  #v[11, 8, 12, 0, 5, 2, 15, 13, 10, 14, 3, 6, 7, 1, 9, 4],
  #v[7, 9, 3, 1, 13, 12, 11, 14, 2, 6, 5, 10, 4, 0, 15, 8],
  #v[9, 0, 5, 7, 2, 4, 10, 15, 14, 1, 11, 12, 6, 8, 3, 13],
  #v[2, 12, 6, 10, 0, 11, 8, 3, 4, 13, 7, 5, 15, 14, 1, 9],
  #v[12, 5, 1, 15, 14, 13, 4, 10, 0, 7, 6, 3, 9, 2, 8, 11],
  #v[13, 11, 7, 14, 12, 1, 3, 9, 5, 0, 15, 4, 8, 6, 2, 10],
  #v[6, 15, 14, 9, 11, 3, 0, 8, 12, 2, 13, 7, 1, 4, 10, 5],
  #v[10, 2, 8, 4, 7, 6, 1, 5, 15, 11, 9, 14, 3, 12, 13, 0],
  #v[0, 1, 2, 3, 4, 5, 6, 7, 8, 9, 10, 11, 12, 13, 14, 15],
  #v[14, 10, 4, 8, 9, 15, 13, 6, 1, 12, 0, 2, 11, 7, 5, 3]]

/-- The mixing function G on the words `a b c d` of `v` with the message words `x y` (40_compression.md R102). -/
def mixG (v : Vector Word 16) (a b c d : Fin 16) (x y : Word) : Vector Word 16 :=
  let v := v.set a (v[a] + v[b] + x)
  let v := v.set d ((v[d] ^^^ v[a]).rotateRight 32)
  let v := v.set c (v[c] + v[d])
  let v := v.set b ((v[b] ^^^ v[c]).rotateRight 24)
  let v := v.set a (v[a] + v[b] + y)
  let v := v.set d ((v[d] ^^^ v[a]).rotateRight 16)
  let v := v.set c (v[c] + v[d])
  v.set b ((v[b] ^^^ v[c]).rotateRight 63)

/-- One round with the schedule row `s`: four columns, then four diagonals (40_compression.md R103). -/
def mixRound (m : Vector Word 16) (s : Vector (Fin 16) 16) (v : Vector Word 16) : Vector Word 16 :=
  let v := mixG v 0 4 8 12 m[s[0]] m[s[1]]
  let v := mixG v 1 5 9 13 m[s[2]] m[s[3]]
  let v := mixG v 2 6 10 14 m[s[4]] m[s[5]]
  let v := mixG v 3 7 11 15 m[s[6]] m[s[7]]
  let v := mixG v 0 5 10 15 m[s[8]] m[s[9]]
  let v := mixG v 1 6 11 12 m[s[10]] m[s[11]]
  let v := mixG v 2 7 8 13 m[s[12]] m[s[13]]
  mixG v 3 4 9 14 m[s[14]] m[s[15]]

/-- The working vector F starts from (40_compression.md R104). -/
def initVector (h : Vector Word 8) (t : BitVec 128) (last : Bool) : Vector Word 16 :=
  let v : Vector Word 16 := h ++ iv
  let v := v.set 12 (v[12] ^^^ t.extractLsb' 0 64)
  let v := v.set 13 (v[13] ^^^ t.extractLsb' 64 64)
  if last then v.set 14 (~~~v[14]) else v

/-- Rounds 0 to 11 (40_compression.md R105). -/
def runRounds (m : Vector Word 16) (v : Vector Word 16) : Vector Word 16 :=
  sigma.toList.foldl (fun v s => mixRound m s v) v

/-- `F(h, m, t, last)` (40_compression.md R104 to R106). -/
def compressF (h : Vector Word 8) (m : Vector Word 16) (t : BitVec 128) (last : Bool) : Vector Word 8 :=
  let v := runRounds m (initVector h t last)
  Vector.ofFn fun i : Fin 8 => h[i] ^^^ v[i.val] ^^^ v[i.val + 8]

end Sys2Proof.Machine
end

