-- ==== Sys2Proof/Machine/Counter.lean ====
section
/-! DEFINITION. The dual 128-bit counter increment (42_counter.md) and the command CTRINC. -/

namespace Sys2Proof.Machine

/-- `{hi, lo}`, the 128-bit value `hi * 2^64 + lo` (00_scope.md R7). -/
def counter (hi lo : Word) : BitVec 128 := BitVec.ofNat 128 (hi.toNat * 2 ^ 64 + lo.toNat)

/-- The low limb of a counter. -/
def counterLo (c : BitVec 128) : Word := c.extractLsb' 0 64

/-- The high limb of a counter. -/
def counterHi (c : BitVec 128) : Word := c.extractLsb' 64 64

/-- `SeqInc`, the branch strategy: add to the low limb, and on a wrap found by comparison add 1 to the high limb
(42_counter.md R141). -/
def seqInc (c : BitVec 128) (n : Word) : BitVec 128 :=
  let lo := counterLo c
  let hi := counterHi c
  let lo' := lo + n
  counter (if lo' < lo then hi + 1 else hi) lo'

/-- One limb of the carry chain: the 33-bit sum of two limbs and the carry (42_counter.md R142). -/
def addWithCarry (c a : BitVec 32) (cf : BitVec 1) : BitVec 33 :=
  c.setWidth 33 + a.setWidth 33 + cf.setWidth 33

/-- The limb `s[31:0]` of a 33-bit sum. -/
def sumLimb (s : BitVec 33) : BitVec 32 := s.extractLsb' 0 32

/-- The carry `s[32]` of a 33-bit sum. -/
def sumCarry (s : BitVec 33) : BitVec 1 := s.extractLsb' 32 1

/-- `{c[k+1], c[k]}`, a 64-bit limb from two 32-bit ones (00_scope.md R7). -/
def joinLimbs (hi lo : BitVec 32) : Word := BitVec.ofNat 64 (hi.toNat * 2 ^ 32 + lo.toNat)

/-- `ParInc`, the flag-carry strategy: a carry chain over four 32-bit limbs, the last carry dropped
(42_counter.md R142). -/
def parInc (c : BitVec 128) (n : Word) : BitVec 128 :=
  let s0 := addWithCarry (c.extractLsb' 0 32) (n.extractLsb' 0 32) 0
  let s1 := addWithCarry (c.extractLsb' 32 32) (n.extractLsb' 32 32) (sumCarry s0)
  let s2 := addWithCarry (c.extractLsb' 64 32) 0 (sumCarry s1)
  let s3 := addWithCarry (c.extractLsb' 96 32) 0 (sumCarry s2)
  counter (joinLimbs (sumLimb s3) (sumLimb s2)) (joinLimbs (sumLimb s1) (sumLimb s0))

/-- `Inc(strat, t, n)` (42_counter.md R145). -/
def inc (strat : Strategy) (c : BitVec 128) (n : Word) : BitVec 128 :=
  match strat with
  | .sequential => seqInc c n
  | .parallel => parInc c n

/-- CTRINC (42_counter.md R143). -/
def execCtrinc (variant : Strategy) (s : State) : Host.Outcome State Fault Refusal :=
  let c := inc variant (counter s.ctrHi s.ctrLo) s.ctrN
  succeed { s with ctrLo := counterLo c, ctrHi := counterHi c }

end Sys2Proof.Machine
end

