-- ==== Sys2Proof/Machine/Session.lean ====
section
/-! DEFINITION. The hashing session controller: INIT, ABSORB, FINAL (41_session.md). -/

namespace Sys2Proof.Machine

/-- The parameter word `P[0]` (41_session.md R120). -/
def paramWord (outlen keylen : BitVec 7) : Word := 0x01010000 ^^^ field keylen 8 ^^^ field outlen 0

/-- The chain a session starts from: `IV` with `P[0]` in word 0 (41_session.md R120, R122). -/
def initChain (outlen keylen : BitVec 7) : Vector Word 8 := iv.set 0 (iv[0] ^^^ paramWord outlen keylen)

/-- The state a successful INIT leaves, but for ERR (41_session.md R122). -/
def State.openSession (outlen keylen : BitVec 7) (strat : Strategy) (s : State) : State :=
  { s with
    h := initChain outlen keylen
    t := 0
    buf := s.keyBlock keylen.toNat
    fill := if keylen = 0 then 0 else 128
    ccount := 0
    dout := Vector.replicate 8 0
    strat := strat
    outlen := outlen
    keylen := keylen
    sstate := .absorbing }

/-- One compression of the buffer: the counter advances by `n`, F replaces the chain, CCOUNT counts it
(41_session.md R125, R127). -/
def State.compress (n : Word) (last : Bool) (s : State) : State :=
  let t := inc s.strat s.t n
  { s with t := t, h := compressF s.h (messageBlock s.buf) t last, ccount := s.ccount + 1 }

/-- `buf[fill] <- x; fill <- fill + 1` (41_session.md R125). A write past the buffer, which no reachable state makes
(10_state.md R42), is dropped (notes/assumptions/9.md). -/
def State.appendByte (x : Byte) (s : State) : State :=
  { s with buf := s.buf.setIfInBounds s.fill.toNat x, fill := s.fill + 1 }

/-- `AbsorbByte(x)`: a full buffer is compressed first, as one more byte is here (41_session.md R125). -/
def State.absorbByte (s : State) (x : Byte) : State :=
  if s.fill = 128 then { s.compress 128 false with fill := 0 }.appendByte x else s.appendByte x

/-- AbsorbByte for each byte in order (41_session.md R124, R126). -/
def State.absorbBytes (s : State) (bytes : List Byte) : State := bytes.foldl State.absorbByte s

/-- `Mask(O, i)`: 0xFF in the byte lanes of word `i` that hold digest bytes below `O` (41_session.md R128). -/
def digestMask (outlen i : Nat) : Word :=
  le64 (Vector.ofFn fun k : Fin 8 => if 8 * i + k.val < outlen then 0xFF else 0)

/-- `dout[i] <- h[i] & Mask(outlen, i)` for all `i` (41_session.md R128). -/
def maskedDigest (h : Vector Word 8) (outlen : Nat) : Vector Word 8 :=
  Vector.ofFn fun i : Fin 8 => h[i] &&& digestMask outlen i.val

/-- The state a successful FINAL leaves, but for ERR (41_session.md R127). -/
def State.closeSession (s : State) : State :=
  let s' := { s with buf := zeroFrom s.fill.toNat s.buf }.compress (s.fill.setWidth 64) true
  { s' with dout := maskedDigest s'.h s'.outlen.toNat, sstate := .finalized }

/-- INIT (41_session.md R121, R122). -/
def execInit (outlen keylen : BitVec 7) (strat : Strategy) (s : State) : Host.Outcome State Fault Refusal :=
  if s.sstate = .absorbing then fail .invalidState s
  else succeed (s.openSession outlen keylen strat)

/-- ABSORB (41_session.md R124). -/
def execAbsorb (len : BitVec 4) (s : State) : Host.Outcome State Fault Refusal :=
  if s.sstate = .absorbing then succeed (s.absorbBytes (s.dinBytes len.toNat))
  else fail .invalidState s

/-- FINAL (41_session.md R127). -/
def execFinal (s : State) : Host.Outcome State Fault Refusal :=
  if s.sstate = .absorbing then succeed s.closeSession
  else fail .invalidState s

end Sys2Proof.Machine
end

