-- ==== Sys2Proof/Machine/Dispatch.lean ====
section
/-! DEFINITION. One command to its meaning, one arm per constructor of Instr (30_encoding.md R83). -/

namespace Sys2Proof.Machine

def exec (i : Instr) (s : State) : Host.Outcome State Fault Refusal :=
  match i with
  | .init outlen keylen strat => Sys2Proof.Machine.execInit outlen keylen strat s
  | .absorb len => Sys2Proof.Machine.execAbsorb len s
  | .final => Sys2Proof.Machine.execFinal s
  | .cmp => Sys2Proof.Machine.execCmp s
  | .cmpd => Sys2Proof.Machine.execCmpd s
  | .endian form => Sys2Proof.Machine.execEndian form s
  | .ctrinc variant => Sys2Proof.Machine.execCtrinc variant s

end Sys2Proof.Machine
end

