-- ==== Sys2Proof/Machine/Bus.lean ====
section
/-! DEFINITION. What one host access does (20_memory.md R61, R62, R65), and the order in which an access is checked
(60_exceptions.md R203). -/

namespace Sys2Proof.Machine

/-- Adds to an outcome what the machine does around it to the next state. -/
def onNext (f : State → State) (o : Host.Outcome State Fault Refusal) : Host.Outcome State Fault Refusal :=
  match o with
  | .next s => .next (f s)
  | .fault r => .fault r
  | .refused r => .refused r

/-- Records what an access answered. -/
def State.answer (r : Reply) (s : State) : State := { s with reply := r }

/-- A 64-bit write to CMD: the word is decoded and the command performed; a word that is none fails with ILLEGAL_CMD
before any state is looked at (30_encoding.md R80, R85; 60_exceptions.md R203). -/
def performCommand (w : Word) (s : State) : Host.Outcome State Fault Refusal :=
  match decode w with
  | .ok i => exec i s
  | .error _ => fail .illegalCmd s

/-- A 64-bit write at an offset that is a multiple of 8 (20_memory.md R62). -/
def writeOffset (off : Nat) (v : Word) (s : State) : Host.Outcome State Fault Refusal :=
  match regAt off with
  | some .cmd => performCommand v s
  | some r => .next (s.writeReg r v)
  | none => .next s

/-- The byte address of an access. -/
def BusAccess.addr : BusAccess → Nat
  | .read addr _ => addr
  | .write addr _ _ => addr

/-- The width of an access in bytes. -/
def BusAccess.width : BusAccess → Nat
  | .read _ width => width
  | .write _ width _ => width

/-- `addr` lies in the instance's window (20_memory.md R60). -/
def State.inWindow (s : State) (addr : Nat) : Bool := s.base ≤ addr && addr < s.base + Config.windowSize

/-- The access is 64 bits wide at an offset that is a multiple of 8, the only kind accepted (20_memory.md R65). -/
def State.accepts (s : State) (a : BusAccess) : Bool := a.width == Config.busBytes && (a.addr - s.base) % 8 == 0

/-- An accepted access at its offset (20_memory.md R61, R62). -/
def performAccess (a : BusAccess) (s : State) : Host.Outcome State Fault Refusal :=
  match a with
  | .read addr _ => .next (s.answer (.data (s.readOffset (addr - s.base))))
  | .write addr _ v => onNext (State.answer .written) (writeOffset (addr - s.base) v s)

/-- One access by the bus master `agent`: refused from a second agent (60_exceptions.md R210) and outside the window
(20_memory.md R73), a BusError if it is not an accepted one (R65), performed otherwise. -/
def busCycle (agent : Nat) (a : BusAccess) (s : State) : Host.Outcome State Fault Refusal :=
  if agent ≠ s.owner then .refused (.twoAgents agent)
  else if s.inWindow a.addr = false then .refused (.outsideWindow a.addr)
  else if s.accepts a = false then .fault (.busError a.addr)
  else performAccess a s

/-- What one input from outside does. A reset abandons the access in progress, if there is one
(70_reset_and_hazards.md R221). -/
def takeInput (e : Input) (s : State) : Host.Outcome State Fault Refusal :=
  match e with
  | .bus agent a => busCycle agent a s
  | .reset _ => .next s.applyReset

/-- The input that makes the instance's host write `w` to CMD (30_encoding.md R87). -/
def commandInput (base owner : Nat) (w : Word) : Input :=
  .bus owner (.write (base + Reg.offset .cmd) Config.busBytes w)

end Sys2Proof.Machine
end

