-- ==== Sys2Proof/Machine/Step.lean ====
section
/-! DEFINITION. One step: the next input is taken. The CORE has no program counter and fetches nothing (10_state.md R40,
20_memory.md R71); its program is the host's sequence of accesses (00_scope.md R10), which State holds as `pending`. -/

namespace Sys2Proof.Machine

/-- Takes the first pending input. With none, the CORE waits and nothing changes (10_state.md R20,
70_reset_and_hazards.md R221). -/
def step (s : State) : Host.Outcome State Fault Refusal :=
  match s.pending with
  | [] => .next s
  | e :: rest => takeInput e { s with pending := rest }

/-- The host's next access becomes the write to CMD of the word whose low `nbits` bits are those of `w`. -/
def State.withFetchWord (s : State) (nbits w : Nat) : State :=
  { s with pending := commandInput s.base s.owner (BitVec.ofNat 64 (w % 2 ^ nbits)) :: s.pending }

end Sys2Proof.Machine
end

