-- ==== Sys2Proof/Machine/HostProgram.lean ====
section
/-! DEFINITION. The host-program notation of 30_encoding.md R87 and the pseudo-instructions of R88, as the bus accesses
they stand for. A program is loaded by making it the instance's pending inputs (notes/assumptions/1.md). -/

namespace Sys2Proof.Machine

/-- One line of a host program (30_encoding.md R87). -/
inductive Line where
  /-- `WR <REG>, <v64>` -/
  | wr (r : Reg) (v : Word)
  /-- `RD <REG>` -/
  | rd (r : Reg)
  /-- `INIT ..`, `ABSORB ..`, `FINAL`, `CMP`, `CMPD`, `ENDIAN ..`, `CTRINC ..` -/
  | command (i : Instr)
  /-- `.word <v64>` -/
  | word (w : Word)
deriving DecidableEq, Repr

/-- The bus access a line stands for, with the window at `base` (30_encoding.md R87). -/
def Line.access (base : Nat) : Line → BusAccess
  | .wr r v => .write (base + r.offset) Config.busBytes v
  | .rd r => .read (base + r.offset) Config.busBytes
  | .command i => .write (base + Reg.offset .cmd) Config.busBytes (encode i)
  | .word w => .write (base + Reg.offset .cmd) Config.busBytes w

/-- A program, as the inputs its host makes. -/
def programInputs (base owner : Nat) (p : List Line) : List Input :=
  p.map fun l => .bus owner (l.access base)

/-- Makes `p` the program the instance's host goes on to run. -/
def State.load (p : List Line) (s : State) : State := { s with pending := programInputs s.base s.owner p }

/-- Runs the program `p` from `s` to its end. -/
def State.runProgram (p : List Line) (s : State) : Host.Outcome State Fault Refusal :=
  Host.Core.run Sys2Proof.core p.length (s.load p)

/-- `LE64` of up to eight bytes, zero-filled (30_encoding.md R88). -/
def packWord (bytes : List Byte) : Word := le64 (Vector.ofFn fun k : Fin 8 => bytes.getD k.val 0)

/-- `ABS8 <v64>, <n>` (30_encoding.md R88). -/
def abs8 (v : Word) (n : BitVec 4) : List Line := [.wr .din v, .command (.absorb n)]

/-- `ABSBYTES` of at most `8 * chunks` bytes (30_encoding.md R88). -/
def absChunks (chunks : Nat) (bytes : List Byte) : List Line :=
  match chunks, bytes with
  | 0, _ => []
  | _ + 1, [] => []
  | n + 1, b :: rest =>
    abs8 (packWord (b :: rest)) (BitVec.ofNat 4 (min 8 (b :: rest).length)) ++ absChunks n ((b :: rest).drop 8)

/-- `ABSBYTES b0, b1, ..` (30_encoding.md R88). -/
def absBytes (bytes : List Byte) : List Line := absChunks bytes.length bytes

/-- `SETKEY k0, .., k(K-1)` (30_encoding.md R88). -/
def setKey (key : List Byte) : List Line :=
  (List.finRange 8).map fun i => .wr (.key i) (packWord (key.drop (8 * i.val)))

/-- `SETTHR t0, t1, t2, t3` (30_encoding.md R88). -/
def setThr (t0 t1 t2 t3 : Word) : List Line :=
  [.wr (.thr 0) t0, .wr (.thr 1) t1, .wr (.thr 2) t2, .wr (.thr 3) t3]

/-- `HASH <msg>, outlen=O, key=<k>, strat=S` (30_encoding.md R88). -/
def hashProgram (msg : List Byte) (outlen : BitVec 7) (key : List Byte) (strat : Strategy) : List Line :=
  (if key = [] then [] else setKey key) ++
    .command (.init outlen (BitVec.ofNat 7 key.length) strat) :: absBytes msg ++ [.command .final]

/-- `CHECK` (30_encoding.md R88). -/
def checkProgram : List Line := [.rd .status]

/-- The host's test of a STATUS value in `CHECK`: `STATUS[15:8] = 0` (30_encoding.md R88). -/
def statusIsOk (w : Word) : Bool := w.extractLsb' 8 8 == 0

end Sys2Proof.Machine
end

