-- ==== Sys2Proof/Machine/System.lean ====
section
/-! DEFINITION. A system of CORE instances (60_exceptions.md R210): `NINST` of them, each with its own window, its own
host and all of its own state. Which instance's host moves next is an argument: 20_memory.md R68 gives no order between
them. -/

namespace Sys2Proof.Machine

/-- Why an instance's host no longer moves. -/
inductive Stop where
  | fault (r : Fault)
  | refused (r : Refusal)
deriving DecidableEq, Repr

/-- One instance, and whether its host is stopped. A stopped host makes no further access; the CORE keeps its state
(60_exceptions.md R202). DESIGN CHOICE: a stopped slot takes no input at all, so a reset pending behind the stop never
comes, and the mark outlives a reset that another slot takes (notes/assumptions/4.md, 23.md). -/
structure Slot where
  core : State
  stopped : Option Stop
deriving DecidableEq, Repr

/-- The instances, `NINST` in number. -/
structure System where
  slots : List Slot
deriving DecidableEq, Repr

/-- The system right after reset: one instance for each pair of a base and a host number. -/
def System.reset (places : List (Nat × Nat)) : System :=
  { slots := places.map fun p => { core := State.resetAt p.1 p.2, stopped := none } }

/-- The open parameters are in their ranges: `NINST ≥ 1` (00_scope.md R6), every base a multiple of 0x1000, no two alike
(93_implementation_defined.md U5). -/
def System.wellPlaced (sys : System) : Bool :=
  decide (1 ≤ sys.slots.length) && sys.slots.all (fun sl => sl.core.base % Config.windowSize == 0) &&
    decide (sys.slots.map fun sl => sl.core.base).Nodup

/-- The instance takes its next input; a fault or a refusal stops its host and changes nothing of the CORE
(60_exceptions.md R202). DESIGN CHOICE: a stopped slot takes no further input, a reset among them
(notes/assumptions/23.md). -/
def Slot.advance (sl : Slot) : Slot :=
  match sl.stopped with
  | some _ => sl
  | none =>
    match step sl.core with
    | .next s => { core := s, stopped := none }
    | .fault r => { core := sl.core, stopped := some (.fault r) }
    | .refused r => { core := sl.core, stopped := some (.refused r) }

/-- The reset input reaches the instance. DESIGN CHOICE: whether its host is stopped does not change
(notes/assumptions/14.md, 23.md). -/
def Slot.applyReset (sl : Slot) : Slot := { sl with core := sl.core.applyReset }

/-- The instance's next input is an assertion of the reset input. DESIGN CHOICE: never so for a stopped slot
(notes/assumptions/23.md). -/
def Slot.resetIsNext (sl : Slot) : Bool :=
  match sl.stopped, sl.core.pending with
  | none, .reset _ :: _ => true
  | _, _ => false

/-- Instance `k` takes its next input. The reset input resets every instance at once (70_reset_and_hazards.md R220);
any other input is that instance's alone (60_exceptions.md R210). -/
def System.stepAt (k : Nat) (sys : System) : System :=
  match sys.slots[k]? with
  | none => sys
  | some sl =>
    if sl.resetIsNext then { slots := (sys.slots.map Slot.applyReset).set k sl.advance }
    else { slots := sys.slots.set k sl.advance }

/-- The instances named move one after the other. -/
def System.run (schedule : List Nat) (sys : System) : System := schedule.foldl (fun sys k => sys.stepAt k) sys

/-- The bus master `agent` issues an access: it goes to the end of the program of the host of the instance in whose
window it lies. Outside every window the decoding is the platform's (20_memory.md R73); a second agent on an instance
is refused (60_exceptions.md R210). -/
def System.post (agent : Nat) (a : BusAccess) (sys : System) : Host.Outcome System Fault Refusal :=
  match sys.slots.findIdx? (fun sl => sl.core.inWindow a.addr) with
  | none => .refused (.outsideWindow a.addr)
  | some k =>
    match sys.slots[k]? with
    | none => .refused (.outsideWindow a.addr)
    | some sl =>
      if agent ≠ sl.core.owner then .refused (.twoAgents agent)
      else
        let core := { sl.core with pending := sl.core.pending ++ [.bus agent a] }
        .next { slots := sys.slots.set k { sl with core := core } }

end Sys2Proof.Machine
end

