-- ==== Sys2Proof/Safety.lean ====
section
/-! DEFINITION. The terms claims are stated in: the invariants of 10_state.md R42, what a host must keep so that no access
is refused (70_reset_and_hazards.md R222, item 1), a 256-bit number, and the hash a session computes, written block by
block. -/

namespace Sys2Proof.Machine

/-! ### Invariants -/

/-- The invariants of 10_state.md R42, the reset contents that stay until the first INIT (70_reset_and_hazards.md R220)
and what DOUT holds between commands (41_session.md R122, R127, R128). "No INIT has succeeded since reset" is
`sstate = INIT`: INIT is the only way out of it and nothing but reset leads back (10_state.md R37). -/
structure Inv (s : State) : Prop where
  base_aligned : s.base % Config.windowSize = 0
  fill_le : s.fill.toNat ≤ Config.blockBytes
  outlen_le : s.outlen.toNat ≤ Config.maxOutlen
  keylen_le : s.keylen.toNat ≤ Config.maxKeylen
  below_iff_lt : s.below = true ↔ s.cmp = .lt
  outlen_zero_iff : s.outlen = 0 ↔ s.sstate = .init
  before_init : s.sstate = .init →
    s.h = Vector.replicate 8 0 ∧ s.t = 0 ∧ s.buf = Vector.replicate 128 0 ∧ s.fill = 0 ∧ s.ccount = 0 ∧
      s.strat = .sequential ∧ s.keylen = 0
  dout_before_final : s.sstate ≠ .finalized → s.dout = Vector.replicate 8 0
  dout_after_final : s.sstate = .finalized → s.dout = maskedDigest s.h s.outlen.toNat

/-- The session counter and CCOUNT agree: while a session is open the counter is a whole number of blocks and CCOUNT
(mod 2^64) is that number; FINAL adds the bytes of the last block and one compression (41_session.md R125, R127). -/
def CountInv (s : State) : Prop :=
  match s.sstate with
  | .init => True
  | .absorbing => s.t.toNat % Config.blockBytes = 0 ∧ s.ccount = BitVec.ofNat 64 (s.t.toNat / Config.blockBytes)
  | .finalized =>
    let full := s.t - s.fill.setWidth 128
    full.toNat % Config.blockBytes = 0 ∧ s.ccount = BitVec.ofNat 64 (full.toNat / Config.blockBytes + 1)

/-! ### Inputs that never stop the machine -/

/-- An input a host that keeps 70_reset_and_hazards.md R222 item 1 makes: its own access, in the window, 64 bits wide
and aligned; or the reset input. -/
def State.legalInput (s : State) : Input → Bool
  | .bus agent a => agent == s.owner && s.inWindow a.addr && s.accepts a
  | .reset _ => true

/-- Every pending input is legal. -/
def State.LegalInputs (s : State) : Prop := ∀ e ∈ s.pending, s.legalInput e = true

/-- A safe run: `n` steps with no fault and no refusal. -/
def State.SafeFor (n : Nat) (s : State) : Prop := ∃ s', Host.Core.run Sys2Proof.core n s = .next s'

/-! ### Numbers and hashes -/

/-- `val(X) = Σ X[i] << 64(3-i)` (43_compare.md R152). -/
def limbValue (x : Vector Word 4) : Nat :=
  x[0].toNat * 2 ^ 192 + x[1].toNat * 2 ^ 128 + x[2].toNat * 2 ^ 64 + x[3].toNat

/-- The number 32 bytes spell, byte 0 the most significant (43_compare.md R155). -/
def bigEndianValue (bytes : List Byte) : Nat := bytes.foldl (fun n b => 256 * n + b.toNat) 0

/-- The 64 bytes of DOUT in digest order (10_state.md R28). -/
def State.digestBytes (s : State) : List Byte := List.ofFn s.digestByte

/-- A block holding up to 128 bytes, zero-padded (41_session.md R127). -/
def padBlock (bytes : List Byte) : Vector Byte 128 := Vector.ofFn fun j : Fin 128 => bytes.getD j.val 0

/-- The chain after hashing `bytes`, of which `done` bytes came before, in at most `fuel + 1` blocks: every block but the
last is compressed with `last = 0`, the last, full or not, with `last = 1`; the counter given to each is the number of
bytes up to its end (41_session.md R125, R127, R129; 90_conflicts.md C2). -/
def hashChain (fuel : Nat) (h : Vector Word 8) (done : Nat) (bytes : List Byte) : Vector Word 8 :=
  match fuel with
  | 0 => compressF h (messageBlock (padBlock bytes)) (BitVec.ofNat 128 (done + bytes.length)) true
  | fuel + 1 =>
    if bytes.length ≤ Config.blockBytes then
      compressF h (messageBlock (padBlock bytes)) (BitVec.ofNat 128 (done + bytes.length)) true
    else
      hashChain fuel
        (compressF h (messageBlock (padBlock (bytes.take Config.blockBytes)))
          (BitVec.ofNat 128 (done + Config.blockBytes)) false)
        (done + Config.blockBytes) (bytes.drop Config.blockBytes)

/-- The bytes a session hashes: the zero-padded key block of a keyed session, then the message (41_session.md R123). -/
def sessionBytes (key msg : List Byte) : List Byte := (if key = [] then [] else (padBlock key).toList) ++ msg

/-- The chain a whole session ends in (41_session.md R120, R129). -/
def sessionHash (outlen : BitVec 7) (key msg : List Byte) : Vector Word 8 :=
  let bytes := sessionBytes key msg
  hashChain bytes.length (initChain outlen (BitVec.ofNat 7 key.length)) 0 bytes

/-- The bytes a list of `ABS8 v, n` pseudo-instructions appends. -/
def chunkBytes (chunks : List (Word × BitVec 4)) : List Byte :=
  chunks.flatMap fun c => (List.range c.2.toNat).map (byteLane c.1)

/-- The program of those pseudo-instructions (30_encoding.md R88). -/
def chunkProgram (chunks : List (Word × BitVec 4)) : List Line := chunks.flatMap fun c => abs8 c.1 c.2

/-! ### The opcode table's rows -/

/-- The row of the opcode table with this mask and match takes `w`. -/
def rowTakes (mask bits : Nat) (w : Word) : Bool := w &&& BitVec.ofNat 64 mask == BitVec.ofNat 64 bits

/-- `w` is in a row of the opcode table and keeps the row's constraints (30_encoding.md R81, R84). The masks and matches
are the table's own numbers. -/
def legalWord (w : Word) : Bool :=
  (rowTakes 0xFFFFFFFFFE8080FF 0x01 w && decide (1 ≤ w.toNat / 2 ^ 8 % 2 ^ 7 ∧ w.toNat / 2 ^ 8 % 2 ^ 7 ≤ 64) &&
      decide (w.toNat / 2 ^ 16 % 2 ^ 7 ≤ 64)) ||
    (rowTakes 0xFFFFFFFFFFFFF0FF 0x02 w && decide (w.toNat / 2 ^ 8 % 2 ^ 4 ≤ 8)) ||
    rowTakes 0xFFFFFFFFFFFFFFFF 0x03 w || rowTakes 0xFFFFFFFFFFFFFFFF 0x04 w ||
    rowTakes 0xFFFFFFFFFFFFFFFF 0x05 w || rowTakes 0xFFFFFFFFFFFFFEFF 0x06 w ||
    rowTakes 0xFFFFFFFFFFFFFEFF 0x07 w

/-! ### What a command writes -/

/-- The registers of the window a command may change (the "flags written" and pseudocode of 41_session.md R122, R124,
R127, 42_counter.md R143, 43_compare.md R151, R153, 44_endian.md R161). -/
def writtenRegs : Instr → List Reg
  | .init _ _ _ => [.status, .t0, .t1, .ccount] ++ (List.finRange 8).map .h ++ (List.finRange 8).map .dout ++
      (List.finRange 16).map .buf
  | .absorb _ => [.status, .t0, .t1, .ccount] ++ (List.finRange 8).map .h ++ (List.finRange 16).map .buf
  | .final => [.status, .t0, .t1, .ccount] ++ (List.finRange 8).map .h ++ (List.finRange 8).map .dout ++
      (List.finRange 16).map .buf
  | .cmp => [.status]
  | .cmpd => [.status]
  | .endian .value => [.status, .ecvOut]
  | .endian .inPlace => [.status, .ecvIn]
  | .ctrinc _ => [.status, .ctrLo, .ctrHi]

/-- The RW registers (10_state.md R22). -/
def Reg.isRW : Reg → Bool
  | .din => true
  | .ecvIn => true
  | .ctrN => true
  | .ctrLo => true
  | .ctrHi => true
  | .key _ => true
  | .cmpa _ => true
  | .thr _ => true
  | .id => false
  | .cmd => false
  | .status => false
  | .ecvOut => false
  | .dout _ => false
  | .h _ => false
  | .t0 => false
  | .t1 => false
  | .ccount => false
  | .buf _ => false

end Sys2Proof.Machine
end

