-- ==== Sys2Proof/Certificates/Slice0/Obligations.lean ====
section
/-! DEFINITION. The statements for the provers. Each docstring names the rule of spec/ it formalises. `step` on a state
whose `pending` begins with an access says what that one access does; `exec` says what a command does. -/

open Sys2Proof Sys2Proof.Machine

/-! ## Command words -/

/-- R81, R85, R63: a well-formed command survives encoding and decoding, as a word and as eight bytes, with every operand
at every value the encoding admits. -/
def Obligations.CommandWordRoundTrip : Prop :=
  ∀ i : Instr, i.WellFormed → decode (encode i) = .ok i ∧ decodeBytes (encodeBytes i) = .ok i

/-- R80, R81: a word that decodes is the one encoding of a well-formed command; no bit of it is ignored. -/
def Obligations.DecodedWordIsItsEncoding : Prop :=
  ∀ (w : Word) (i : Instr), decode w = .ok i → i.WellFormed ∧ encode i = w

/-- R84, R85: the words that decode are exactly those in a row of the opcode table (its mask and match) that keep the
row's field ranges. -/
def Obligations.LegalWordsAreTableRows : Prop :=
  ∀ w : Word, (∃ i, decode w = .ok i) ↔ legalWord w = true

/-- R84: a word that is in no row of the opcode table, or breaks its row's field ranges, performs fail(ILLEGAL_CMD):
ERR takes the code and nothing else of the CORE changes. -/
def Obligations.IllegalWordFails : Prop :=
  ∀ (s : State) (w : Word) (rest : List Input), legalWord w = false →
    step { s with pending := commandInput s.base s.owner w :: rest } =
      .next { s with pending := rest, reply := .written, err := .illegalCmd }

/-- R86: the sample words of the spec, legal and illegal. -/
def Obligations.SampleWordsDecode : Prop :=
  decode 0x2001 = .ok (.init 32 0 .sequential) ∧ decode 0x1002001 = .ok (.init 32 0 .parallel) ∧
  decode 0x202001 = .ok (.init 32 32 .sequential) ∧ decode 0x1404001 = .ok (.init 64 64 .parallel) ∧
  decode 0x0802 = .ok (.absorb 8) ∧ decode 0x0302 = .ok (.absorb 3) ∧ decode 0x0002 = .ok (.absorb 0) ∧
  decode 0x0003 = .ok .final ∧ decode 0x0004 = .ok .cmp ∧ decode 0x0005 = .ok .cmpd ∧
  decode 0x0006 = .ok (.endian .value) ∧ decode 0x0106 = .ok (.endian .inPlace) ∧
  decode 0x0007 = .ok (.ctrinc .sequential) ∧ decode 0x0107 = .ok (.ctrinc .parallel) ∧
  decode 0x0001 = .error .outlenRange ∧ decode 0x4101 = .error .outlenRange ∧
  decode 0x0902 = .error .lenRange ∧ decode 0x0103 = .error .reservedBit ∧
  decode 0x100000003 = .error .upperHalf

/-- R25, R66, R80: the host's write to CMD of a word that decodes to `i` is one step, and it is `exec i`; around it the
step takes the access from the host's program and answers it. `withFetchWord` makes that write the next access. With no
access pending the CORE waits (R20, R221). The model's choices in it: that the host's accesses are a list of which a step
takes the first, that `withFetchWord` puts one before it, and that the answer is recorded (notes/assumptions/1.md, 8.md),
and that waiting is a step that changes nothing (notes/assumptions/21.md). -/
def Obligations.StepRunsDecodedCommand : Prop :=
  (∀ (s : State) (w : Word) (i : Instr) (rest : List Input), decode w = .ok i →
    step { s with pending := commandInput s.base s.owner w :: rest } =
      onNext (State.answer .written) (exec i { s with pending := rest })) ∧
  (∀ (s : State) (w : Word) (i : Instr), decode w = .ok i →
    step (s.withFetchWord 64 w.toNat) = onNext (State.answer .written) (exec i s) ∧
      decodeTableWord 64 w.toNat = some i) ∧
  (∀ s : State, s.pending = [] → step s = .next s)

/-! ## The register window -/

/-- R61: what a 64-bit read at each offset of the window returns, and that it changes nothing but the model's record of
the answer. (93_implementation_defined.md U3: a portable proof does not use the reserved offsets.) -/
def Obligations.WindowReads : Prop :=
  ∀ (s : State) (rest : List Input),
    let read (off : Nat) := step { s with pending := .bus s.owner (.read (s.base + off) 8) :: rest }
    let answers (v : Word) : Host.Outcome State Fault Refusal := .next { s with pending := rest, reply := .data v }
    (∀ off, off < 0x1000 → off % 8 ≠ 0 → read off = .fault (.busError (s.base + off))) ∧
    read 0x000 = answers 0x00000001B2B00256 ∧
    read 0x008 = answers 0 ∧
    read 0x010 = answers s.statusWord ∧
    read 0x020 = answers s.din ∧
    read 0x028 = answers s.ecvIn ∧
    read 0x030 = answers s.ecvOut ∧
    read 0x038 = answers s.ctrN ∧
    read 0x040 = answers s.ctrLo ∧
    read 0x048 = answers s.ctrHi ∧
    (∀ i : Fin 8, read (0x080 + 8 * i.val) = answers s.key[i]) ∧
    (∀ i : Fin 8, read (0x0C0 + 8 * i.val) = answers s.dout[i]) ∧
    (∀ i : Fin 8, read (0x100 + 8 * i.val) = answers s.h[i]) ∧
    read 0x140 = answers (s.t.extractLsb' 0 64) ∧
    read 0x148 = answers (s.t.extractLsb' 64 64) ∧
    read 0x150 = answers s.ccount ∧
    (∀ i : Fin 16, read (0x180 + 8 * i.val) = answers (messageBlock s.buf)[i]) ∧
    (∀ i : Fin 4, read (0x200 + 8 * i.val) = answers s.cmpa[i]) ∧
    (∀ i : Fin 4, read (0x220 + 8 * i.val) = answers s.thr[i]) ∧
    (∀ off, off < 0x1000 → off % 8 = 0 →
      off = 0x018 ∨ (0x050 ≤ off ∧ off ≤ 0x078) ∨ (0x158 ≤ off ∧ off ≤ 0x178) ∨ 0x240 ≤ off →
      read off = answers 0)

/-- R62: what a 64-bit write at each offset of the window does: CMD performs the command, an RW register takes the value
and is all that changes, an RO register or a reserved offset ignores it. (U3: a portable proof does not use the reserved
offsets.) -/
def Obligations.WindowWrites : Prop :=
  ∀ (s : State) (v : Word) (rest : List Input),
    let write (off : Nat) := step { s with pending := .bus s.owner (.write (s.base + off) 8 v) :: rest }
    let u : State := { s with pending := rest, reply := .written }
    (∀ off, off < 0x1000 → off % 8 ≠ 0 → write off = .fault (.busError (s.base + off))) ∧
    write 0x008 = (match decode v with
      | .ok i => onNext (State.answer .written) (exec i { s with pending := rest })
      | .error _ => .next { u with err := .illegalCmd }) ∧
    write 0x020 = .next { u with din := v } ∧
    write 0x028 = .next { u with ecvIn := v } ∧
    write 0x038 = .next { u with ctrN := v } ∧
    write 0x040 = .next { u with ctrLo := v } ∧
    write 0x048 = .next { u with ctrHi := v } ∧
    (∀ i : Fin 8, write (0x080 + 8 * i.val) = .next { u with key := s.key.set i v }) ∧
    (∀ i : Fin 4, write (0x200 + 8 * i.val) = .next { u with cmpa := s.cmpa.set i v }) ∧
    (∀ i : Fin 4, write (0x220 + 8 * i.val) = .next { u with thr := s.thr.set i v }) ∧
    (∀ off, off < 0x1000 → off % 8 = 0 →
      off = 0x000 ∨ off = 0x010 ∨ off = 0x018 ∨ off = 0x030 ∨ (0x050 ≤ off ∧ off ≤ 0x078) ∨
        (0x0C0 ≤ off ∧ off ≤ 0x1F8) ∨ 0x240 ≤ off →
      write off = .next u)

/-- R24: the fields of STATUS, each read from its own bits, and the reserved bits, which read 0. -/
def Obligations.StatusFields : Prop :=
  ∀ s : State,
    let w := s.statusWord
    w.extractLsb' 0 2 = (match s.sstate with | .init => 0 | .absorbing => 1 | .finalized => 2) ∧
    w.extractLsb' 2 1 = (match s.strat with | .sequential => 0 | .parallel => 1) ∧
    w.extractLsb' 3 5 = 0 ∧
    w.extractLsb' 8 8 = (match s.err with | .ok => 0x00 | .illegalCmd => 0x01 | .invalidState => 0x02) ∧
    w.extractLsb' 16 8 = s.fill ∧
    w.extractLsb' 24 2 = (match s.cmp with | .eq => 0 | .lt => 1 | .gt => 2 | .noComparison => 3) ∧
    w.extractLsb' 26 1 = (if s.below then 1 else 0) ∧
    w.extractLsb' 27 5 = 0 ∧
    w.extractLsb' 32 7 = s.outlen ∧
    w.extractLsb' 39 1 = 0 ∧
    w.extractLsb' 40 7 = s.keylen ∧
    w.extractLsb' 47 17 = 0

/-- R23: ID reads its constant in every state, with these fields, and a write to it is ignored. -/
def Obligations.IdIsConstant : Prop :=
  (∀ (s : State) (rest : List Input),
    step { s with pending := .bus s.owner (.read s.base 8) :: rest } =
      .next { s with pending := rest, reply := .data 0x00000001B2B00256 }) ∧
  (∀ (s : State) (v : Word) (rest : List Input),
    step { s with pending := .bus s.owner (.write s.base 8 v) :: rest } =
      .next { s with pending := rest, reply := .written }) ∧
  idWord.extractLsb' 0 16 = 0x0256 ∧ idWord.extractLsb' 16 16 = 0xB2B0 ∧ idWord.extractLsb' 32 16 = 0x0001 ∧
  idWord.extractLsb' 48 16 = 0

/-- R202, R65, R203: an access of the instance's host in the window that is not 64 bits wide at an offset that is a
multiple of 8 is BusError(addr), whatever else it would be; the CORE's state does not change (a refused write to CMD is
no command and does not write ERR). That the host is stopped then is the model's choice (notes/assumptions/4.md). -/
def Obligations.UnacceptedAccessIsBusError : Prop :=
  ∀ (s : State) (a : BusAccess) (rest : List Input),
    s.base ≤ a.addr → a.addr < s.base + 0x1000 → (a.width ≠ 8 ∨ (a.addr - s.base) % 8 ≠ 0) →
    let u : State := { s with pending := .bus s.owner a :: rest }
    step u = .fault (.busError a.addr) ∧
    Slot.advance { core := u, stopped := none } = { core := u, stopped := some (.fault (.busError a.addr)) }

/-- R210: an access by a second agent is refused. The rest is the model's choice: that agents are told apart by their
numbers (notes/assumptions/3.md), that this comes before anything else is looked at (6.md), and that an access outside
the window, whose decoding R73 leaves to the platform, is refused, judged by its first byte (5.md). -/
def Obligations.ForeignAccessRefused : Prop :=
  ∀ (s : State) (agent : Nat) (a : BusAccess) (rest : List Input),
    let o := step { s with pending := .bus agent a :: rest }
    (agent ≠ s.owner → o = .refused (.twoAgents agent)) ∧
    (agent = s.owner → (a.addr < s.base ∨ s.base + 0x1000 ≤ a.addr) → o = .refused (.outsideWindow a.addr))

/-- R62, R67: a read after a write of an RW register returns the value written; a read of any other register returns what
it held before. -/
def Obligations.WriteThenRead : Prop :=
  ∀ (s : State) (r q : Reg) (v : Word), r.isRW = true →
    let u := s.writeReg r v
    Host.Core.run core 2 { s with pending :=
        [.bus s.owner (.write (s.base + r.offset) 8 v), .bus s.owner (.read (s.base + q.offset) 8)] } =
      .next { u with pending := [], reply := .data (if q = r then v else s.readReg q) }

/-- R63: in the register at offset `off`, the byte at `BASE + off + k` is bits `[8k+7:8k]`; the bytes of DIN, KEY and DOUT
are in that order. -/
def Obligations.LittleEndianLanes : Prop :=
  ∀ (s : State),
    (∀ (r : Reg) (k : Nat), k < 8 →
      s.windowByte (s.base + r.offset + k) = some ((s.readReg r).extractLsb' (8 * k) 8)) ∧
    (∀ k, k < 8 → some (s.dinByte k) = s.windowByte (s.base + 0x020 + k)) ∧
    (∀ j : Fin 64, some (s.keyByte j) = s.windowByte (s.base + 0x080 + j.val)) ∧
    (∀ j : Fin 64, some (s.digestByte j) = s.windowByte (s.base + 0x0C0 + j.val))

/-! ## Reset -/

/-- R220: the value of every element after reset, whatever the window's base and the host's number, which are open. The
last clause, that `State.reset` has 0 for both, is the model's choice (notes/assumptions/2.md, 3.md). -/
def Obligations.ResetValues : Prop :=
  ∀ base owner : Nat,
    let s := State.resetAt base owner
    (∀ i : Fin 8, s.h[i] = 0) ∧ s.t = 0 ∧ (∀ j : Fin 128, s.buf[j] = 0) ∧ s.fill = 0 ∧ s.sstate = .init ∧
    s.strat = .sequential ∧ s.outlen = 0 ∧ s.keylen = 0 ∧ s.ccount = 0 ∧ s.err = .ok ∧ s.cmp = .noComparison ∧
    s.below = false ∧ (∀ i : Fin 8, s.dout[i] = 0) ∧ s.ecvOut = 0 ∧ s.din = 0 ∧ s.ecvIn = 0 ∧ s.ctrN = 0 ∧
    s.ctrLo = 0 ∧ s.ctrHi = 0 ∧ (∀ i : Fin 8, s.key[i] = 0) ∧ (∀ i : Fin 4, s.cmpa[i] = 0) ∧
    (∀ i : Fin 4, s.thr[i] = 0) ∧ s.readReg .id = 0x00000001B2B00256 ∧ s.statusWord = 0x0000000003000000 ∧
    State.reset = State.resetAt 0 0

/-- R220, R221: the reset input takes the instance to the reset state from every state, and abandons the access in
progress, whatever it is. That the host's later accesses stay is the model's choice (notes/assumptions/13.md). -/
def Obligations.ResetAbandonsCommand : Prop :=
  ∀ (s : State) (inFlight : Option BusAccess) (rest : List Input),
    step { s with pending := .reset inFlight :: rest } =
      .next { State.resetAt s.base s.owner with pending := rest }

/-! ## The session controller -/

/-- R120, R121, R122: an INIT outside an open session succeeds and opens one: the chain from IV and the parameter word,
counter and CCOUNT zero, the buffer empty or holding the zero-padded key block, DOUT zero, the parameters latched; nothing
else changes. In an open session it fails with INVALID_STATE; an INIT word with a reserved bit or a length out of range
fails with ILLEGAL_CMD in every state; a failure changes nothing else. -/
def Obligations.InitOpensSession : Prop :=
  (∀ (s : State) (outlen keylen : BitVec 7) (strat : Strategy),
    (Instr.init outlen keylen strat).WellFormed → s.sstate ≠ .absorbing →
    ∃ t, exec (.init outlen keylen strat) s = .next t ∧
      t.h[0] = iv[0] ^^^ 0x01010000 ^^^ (keylen.setWidth 64 <<< 8) ^^^ outlen.setWidth 64 ∧
      (∀ i : Fin 8, i ≠ 0 → t.h[i] = iv[i]) ∧
      t.t = 0 ∧
      (∀ j : Fin 128, t.buf[j] =
        if h : j.val < keylen.toNat ∧ j.val < 64 then s.key[j.val / 8].extractLsb' (8 * (j.val % 8)) 8 else 0) ∧
      t.fill = (if 0 < keylen.toNat then 128 else 0) ∧ t.ccount = 0 ∧ (∀ i : Fin 8, t.dout[i] = 0) ∧
      t.strat = strat ∧ t.outlen = outlen ∧ t.keylen = keylen ∧ t.sstate = .absorbing ∧ t.err = .ok ∧
      t = { s with
        h := t.h, t := t.t, buf := t.buf, fill := t.fill, ccount := t.ccount, dout := t.dout, strat := t.strat,
        outlen := t.outlen, keylen := t.keylen, sstate := t.sstate, err := t.err }) ∧
  (∀ (s : State) (outlen keylen : BitVec 7) (strat : Strategy), s.sstate = .absorbing →
    exec (.init outlen keylen strat) s = .next { s with err := .invalidState }) ∧
  (∀ (s : State) (w : Word), w.extractLsb' 0 8 = 0x01 →
    (w.extractLsb' 25 39 ≠ 0 ∨ w.extractLsb' 23 1 ≠ 0 ∨ w.extractLsb' 15 1 ≠ 0 ∨ (w.extractLsb' 8 7).toNat = 0 ∨
      64 < (w.extractLsb' 8 7).toNat ∨ 64 < (w.extractLsb' 16 7).toNat) →
    performCommand w s = .next { s with err := .illegalCmd })

/-- R123: a keyed INIT leaves what an unkeyed-style start with the same parameter word would leave after absorbing the
128 bytes of the zero-padded key; they trigger no compression. -/
def Obligations.KeyedInitAbsorbsKeyBlock : Prop :=
  ∀ (s t : State) (outlen keylen : BitVec 7) (strat : Strategy),
    (Instr.init outlen keylen strat).WellFormed → 0 < keylen.toNat → s.sstate ≠ .absorbing →
    exec (.init outlen keylen strat) s = .next t →
    let start : State := { t with buf := Vector.replicate 128 0, fill := 0 }
    let keyBytes : List Byte := (List.finRange 64).map s.keyByte
    start.absorbBytes (keyBytes.take keylen.toNat ++ List.replicate (128 - keylen.toNat) 0) = t ∧
      t.fill = 128 ∧ t.t = 0 ∧ t.ccount = 0

/-- R125: AbsorbByte. A buffer that is not full takes the byte; a full one is compressed first with the counter advanced
by 128 and `last = 0`, keeps its other bytes, and takes the byte at place 0. -/
def Obligations.AbsorbByteDefersFullBlock : Prop :=
  ∀ (s : State) (x : Byte),
    (∀ h : s.fill.toNat < 128,
      s.absorbByte x = { s with buf := s.buf.set s.fill.toNat x, fill := s.fill + 1 }) ∧
    (s.fill = 128 →
      s.absorbByte x = { s with
        t := s.t + 128
        h := compressF s.h (messageBlock s.buf) (s.t + 128) false
        ccount := s.ccount + 1
        buf := s.buf.set 0 x
        fill := 1 })

/-- R124: an ABSORB in an open session succeeds: AbsorbByte for the LEN first bytes of DIN in lane order, and nothing
else. Outside one it fails with INVALID_STATE, even with LEN = 0; an ABSORB word with a reserved bit or LEN above 8 fails
with ILLEGAL_CMD in every state. -/
def Obligations.AbsorbAppendsDinBytes : Prop :=
  (∀ (s : State) (len : BitVec 4), (Instr.absorb len).WellFormed → s.sstate = .absorbing →
    ∃ t, exec (.absorb len) s = .next t ∧
      t = { ((List.range len.toNat).map fun k => s.din.extractLsb' (8 * k) 8).foldl State.absorbByte s with
        err := .ok } ∧
      t = { s with h := t.h, t := t.t, buf := t.buf, fill := t.fill, ccount := t.ccount, err := .ok }) ∧
  (∀ (s : State) (len : BitVec 4), s.sstate ≠ .absorbing →
    exec (.absorb len) s = .next { s with err := .invalidState }) ∧
  (∀ (s : State) (w : Word), w.extractLsb' 0 8 = 0x02 →
    (w.extractLsb' 12 52 ≠ 0 ∨ 8 < (w.extractLsb' 8 4).toNat) →
    performCommand w s = .next { s with err := .illegalCmd })

/-- R127, R128: a FINAL in an open session succeeds: the counter advances by FILL, the buffer is zero-padded from FILL, one
compression with `last = 1`, DOUT holds the first OUTLEN bytes of the chain and zero after them; FILL stays; nothing else
changes. Outside one it fails with INVALID_STATE; a FINAL word with a reserved bit fails with ILLEGAL_CMD. -/
def Obligations.FinalClosesSession : Prop :=
  (∀ s : State, s.sstate = .absorbing →
    ∃ t, exec .final s = .next t ∧
      t.t = s.t + s.fill.setWidth 128 ∧
      (∀ j : Fin 128, t.buf[j] = if j.val < s.fill.toNat then s.buf[j] else 0) ∧
      t.h = compressF s.h (messageBlock t.buf) t.t true ∧
      t.ccount = s.ccount + 1 ∧
      (∀ j : Fin 64, t.dout[j.val / 8].extractLsb' (8 * (j.val % 8)) 8 =
        if j.val < s.outlen.toNat then t.h[j.val / 8].extractLsb' (8 * (j.val % 8)) 8 else 0) ∧
      t.sstate = .finalized ∧ t.err = .ok ∧
      t = { s with
        t := t.t, buf := t.buf, h := t.h, ccount := t.ccount, dout := t.dout, sstate := t.sstate, err := t.err }) ∧
  (∀ s : State, s.sstate ≠ .absorbing → exec .final s = .next { s with err := .invalidState }) ∧
  (∀ (s : State) (w : Word), w.extractLsb' 0 8 = 0x03 → w.extractLsb' 8 56 ≠ 0 →
    performCommand w s = .next { s with err := .illegalCmd })

/-- R126: split invariance. Two programs of `ABS8` pseudo-instructions that append the same bytes leave the same state,
however the bytes are split, but for DIN, which holds the last value written to it. (Neither program is empty: one of no
access writes no ERR.) -/
def Obligations.SplitInvariance : Prop :=
  ∀ (s : State) (p q : List (Word × BitVec 4)), s.sstate = .absorbing → p ≠ [] → q ≠ [] →
    (∀ c ∈ p, c.2.toNat ≤ 8) → (∀ c ∈ q, c.2.toNat ≤ 8) → chunkBytes p = chunkBytes q →
    ∃ t u, s.runProgram (chunkProgram p) = .next t ∧ s.runProgram (chunkProgram q) = .next u ∧
      t = { u with din := t.din } ∧ t.err = .ok

/-- R129: with `B` bytes absorbed in a session, counting the padded key block, FINAL ends with the counter at `B` mod
2^128 and CCOUNT at `max(1, ceil(B / 128))` (mod 2^64, R30; notes/assumptions/17.md). -/
def Obligations.FinalCounterAndCount : Prop :=
  ∀ (s t : State) (outlen keylen : BitVec 7) (strat : Strategy) (msg : List Byte),
    (Instr.init outlen keylen strat).WellFormed → s.sstate ≠ .absorbing →
    exec (.init outlen keylen strat) s = .next t →
    ∃ u, exec .final (t.absorbBytes msg) = .next u ∧
      let total := msg.length + (if 0 < keylen.toNat then 128 else 0)
      u.t = BitVec.ofNat 128 total ∧ u.ccount = BitVec.ofNat 64 (max 1 ((total + 127) / 128))

/-- R130: 128 bytes and the same bytes with one zero byte after them. The first session compresses the block once, with
`t = 128, last = 1`; the second compresses it with `t = 128, last = 0` and then the block of the one zero byte with
`t = 129, last = 1`. -/
def Obligations.TrailingZeroByteIsHashed : Prop :=
  ∀ (s t : State) (outlen : BitVec 7) (strat : Strategy) (msg : List Byte),
    (Instr.init outlen 0 strat).WellFormed → s.sstate ≠ .absorbing → msg.length = 128 →
    exec (.init outlen 0 strat) s = .next t →
    let block := messageBlock (padBlock msg)
    let zeros : Vector Word 16 := Vector.replicate 16 0
    (∃ u, exec .final (t.absorbBytes msg) = .next u ∧ u.ccount = 1 ∧ u.h = compressF t.h block 128 true) ∧
    (∃ u, exec .final (t.absorbBytes (msg ++ [0])) = .next u ∧ u.ccount = 2 ∧
      u.h = compressF (compressF t.h block 128 false) zeros 129 true)

/-- R88, R120 to R128, 90_conflicts.md C2: the program `HASH msg, outlen, key, strat`, run from any state with no session
open, completes every access, has ERR = OK after each of its commands, and leaves in DOUT the first OUTLEN bytes of the
block-by-block hash of the padded key and the message. -/
def Obligations.HashProgramComputesHash : Prop :=
  ∀ (s : State) (msg key : List Byte) (outlen : BitVec 7) (strat : Strategy),
    s.sstate ≠ .absorbing → key.length ≤ 64 → 1 ≤ outlen.toNat → outlen.toNat ≤ 64 →
    let p := hashProgram msg outlen key strat
    (∀ n, n < p.length → ∃ u, Host.Core.run core (n + 1) (s.load p) = .next u ∧
      ∀ i, p[n]? = some (.command i) → u.err = .ok) ∧
    ∃ t, s.runProgram p = .next t ∧
      t.sstate = .finalized ∧ t.err = .ok ∧ t.pending = [] ∧
      t.h = sessionHash outlen key msg ∧
      t.dout = maskedDigest (sessionHash outlen key msg) outlen.toNat

/-! ## The compression function -/

/-- R108: message word `i` is the little-endian value of buffer bytes `8i .. 8i+7`, and it is what BUFi
reads. -/
def Obligations.MessageWordsLittleEndian : Prop :=
  (∀ (buf : Vector Byte 128) (i : Fin 16),
    ((messageBlock buf)[i]).toNat = ((List.finRange 8).map fun k => buf[8 * i.val + k.val].toNat * 2 ^ (8 * k.val)).sum) ∧
  (∀ (s : State) (i : Fin 16), s.readReg (.buf i) = (messageBlock s.buf)[i])

/-- R102: G on four different words, step by step, with the rotation written out (R8); the other twelve words stay. -/
def Obligations.MixGUpdatesFourWords : Prop :=
  ∀ (v : Vector Word 16) (a b c d : Fin 16) (x y : Word), [a, b, c, d].Nodup →
    let rotr (n : Word) (k : Nat) : Word := (n >>> k) ||| (n <<< (64 - k))
    let a1 := v[a] + v[b] + x
    let d1 := rotr (v[d] ^^^ a1) 32
    let c1 := v[c] + d1
    let b1 := rotr (v[b] ^^^ c1) 24
    let a2 := a1 + b1 + y
    let d2 := rotr (d1 ^^^ a2) 16
    let c2 := c1 + d2
    let b2 := rotr (b1 ^^^ c2) 63
    let v' := mixG v a b c d x y
    v'[a] = a2 ∧ v'[b] = b2 ∧ v'[c] = c2 ∧ v'[d] = d2 ∧
      ∀ i : Fin 16, i ∉ [a, b, c, d] → v'[i] = v[i]

/-- R103: a round is eight G operations, the columns and then the diagonals, operation `i` with the message words the
schedule row names at `2i` and `2i+1`; two operations on disjoint words commute, so the order within each group of four
does not matter. -/
def Obligations.RoundMixesColumnsThenDiagonals : Prop :=
  (∀ (m v : Vector Word 16) (row : Vector (Fin 16) 16),
    let quads : Vector (Fin 16 × Fin 16 × Fin 16 × Fin 16) 8 :=
      #v[(0, 4, 8, 12), (1, 5, 9, 13), (2, 6, 10, 14), (3, 7, 11, 15),
        (0, 5, 10, 15), (1, 6, 11, 12), (2, 7, 8, 13), (3, 4, 9, 14)]
    mixRound m row v =
      (List.finRange 8).foldl (fun v i =>
        mixG v quads[i].1 quads[i].2.1 quads[i].2.2.1 quads[i].2.2.2 m[row[2 * i.val]] m[row[2 * i.val + 1]]) v) ∧
  (∀ (v : Vector Word 16) (a b c d a' b' c' d' : Fin 16) (x y x' y' : Word),
    [a, b, c, d, a', b', c', d'].Nodup →
    mixG (mixG v a b c d x y) a' b' c' d' x' y' = mixG (mixG v a' b' c' d' x' y') a b c d x y)

/-- R100, R101: the values of IV and of the message schedule, as the spec's two tables list them. -/
def Obligations.ConstantTables : Prop :=
  iv.toList = [
    0x6A09E667F3BCC908, 0xBB67AE8584CAA73B, 0x3C6EF372FE94F82B, 0xA54FF53A5F1D36F1,
    0x510E527FADE682D1, 0x9B05688C2B3E6C1F, 0x1F83D9ABFB41BD6B, 0x5BE0CD19137E2179] ∧
  sigma.toList.map (fun row => row.toList.map Fin.val) = [
    [0, 1, 2, 3, 4, 5, 6, 7, 8, 9, 10, 11, 12, 13, 14, 15],
    [14, 10, 4, 8, 9, 15, 13, 6, 1, 12, 0, 2, 11, 7, 5, 3],
    [11, 8, 12, 0, 5, 2, 15, 13, 10, 14, 3, 6, 7, 1, 9, 4],
    [7, 9, 3, 1, 13, 12, 11, 14, 2, 6, 5, 10, 4, 0, 15, 8],
    [9, 0, 5, 7, 2, 4, 10, 15, 14, 1, 11, 12, 6, 8, 3, 13],
    [2, 12, 6, 10, 0, 11, 8, 3, 4, 13, 7, 5, 15, 14, 1, 9],
    [12, 5, 1, 15, 14, 13, 4, 10, 0, 7, 6, 3, 9, 2, 8, 11],
    [13, 11, 7, 14, 12, 1, 3, 9, 5, 0, 15, 4, 8, 6, 2, 10],
    [6, 15, 14, 9, 11, 3, 0, 8, 12, 2, 13, 7, 1, 4, 10, 5],
    [10, 2, 8, 4, 7, 6, 1, 5, 15, 11, 9, 14, 3, 12, 13, 0],
    [0, 1, 2, 3, 4, 5, 6, 7, 8, 9, 10, 11, 12, 13, 14, 15],
    [14, 10, 4, 8, 9, 15, 13, 6, 1, 12, 0, 2, 11, 7, 5, 3]]

/-- R101: every row of the schedule is a permutation of the sixteen message words, and rows 10 and 11 repeat rows 0 and
1. -/
def Obligations.ScheduleRowsArePermutations : Prop :=
  (∀ r : Fin 12, sigma[r].toList.Nodup) ∧ sigma[10] = sigma[0] ∧ sigma[11] = sigma[1]

/-- R104, R105, R106: F builds the working vector from the chain, IV, the counter and the last-block flag, runs the twelve
rounds in order, and XORs both halves into the chain. -/
def Obligations.CompressionFunction : Prop :=
  ∀ (h : Vector Word 8) (m : Vector Word 16) (t : BitVec 128) (last : Bool),
    ∃ v : Vector Word 16,
      (∀ i : Fin 8, v[i.val] = h[i]) ∧
      v[8] = iv[0] ∧ v[9] = iv[1] ∧ v[10] = iv[2] ∧ v[11] = iv[3] ∧
      v[12] = iv[4] ^^^ t.extractLsb' 0 64 ∧ v[13] = iv[5] ^^^ t.extractLsb' 64 64 ∧
      v[14] = (if last then ~~~iv[6] else iv[6]) ∧ v[15] = iv[7] ∧
      let v' := (List.finRange 12).foldl (fun v r => mixRound m sigma[r] v) v
      ∀ i : Fin 8, (compressF h m t last)[i] = h[i] ^^^ v'[i.val] ^^^ v'[i.val + 8]

/-! ## The counter increment -/

/-- R144: the branch strategy and the flag-carry strategy give the same counter, the sum mod 2^128, for every counter and
every 64-bit increment. -/
def Obligations.CounterStrategiesAgree : Prop :=
  ∀ (c : BitVec 128) (n : Word), seqInc c n = parInc c n ∧ seqInc c n = c + n.setWidth 128

/-- R143: CTRINC completes in every state, with either strategy: `{CTR_HI, CTR_LO}` advances by CTR_N mod 2^128, ERR = OK,
and nothing else changes. A CTRINC word with a reserved bit fails with ILLEGAL_CMD. -/
def Obligations.CtrincAdvancesCounter : Prop :=
  (∀ (s : State) (variant : Strategy),
    ∃ t, exec (.ctrinc variant) s = .next t ∧
      t.ctrHi.toNat * 2 ^ 64 + t.ctrLo.toNat =
        (s.ctrHi.toNat * 2 ^ 64 + s.ctrLo.toNat + s.ctrN.toNat) % 2 ^ 128 ∧
      t = { s with ctrLo := t.ctrLo, ctrHi := t.ctrHi, err := .ok }) ∧
  (∀ (s : State) (w : Word), w.extractLsb' 0 8 = 0x07 → w.extractLsb' 9 55 ≠ 0 →
    performCommand w s = .next { s with err := .illegalCmd })

/-- R145: which strategy a session uses shows in STATUS.STRAT and nowhere else: two states that differ only in it stay so
under every command but an INIT that succeeds, which leaves them equal; INIT with the one or the other leaves states that
differ only in it; the registers of such states read the same, but for bit 2 of STATUS. -/
def Obligations.StrategyIsInvisible : Prop :=
  (∀ (i : Instr) (s : State) (strat : Strategy), (∀ outlen keylen st, i ≠ .init outlen keylen st) →
    exec i { s with strat := strat } = onNext (fun t => { t with strat := strat }) (exec i s)) ∧
  (∀ (s : State) (outlen keylen : BitVec 7) (strat strat' : Strategy),
    (s.sstate ≠ .absorbing →
      exec (.init outlen keylen strat') { s with strat := strat } = exec (.init outlen keylen strat') s) ∧
    (s.sstate = .absorbing →
      exec (.init outlen keylen strat') { s with strat := strat } =
        onNext (fun t => { t with strat := strat }) (exec (.init outlen keylen strat') s))) ∧
  (∀ (s : State) (outlen keylen : BitVec 7) (strat strat' : Strategy), s.sstate ≠ .absorbing →
    exec (.init outlen keylen strat') s =
      onNext (fun t => { t with strat := strat' }) (exec (.init outlen keylen strat) s)) ∧
  (∀ (s : State) (strat : Strategy) (r : Reg), r ≠ .status →
    ({ s with strat := strat } : State).readReg r = s.readReg r) ∧
  (∀ (s : State) (strat : Strategy) (j : Nat), j ≠ 2 →
    ({ s with strat := strat } : State).statusWord.getLsbD j = s.statusWord.getLsbD j)

/-! ## The comparator -/

/-- R152: the comparator orders limbs as the 256-bit numbers they spell; so it is antisymmetric and transitive. -/
def Obligations.ComparatorMatchesNumbers : Prop :=
  (∀ a b : Vector Word 4,
    (cmp256 a b = .lt ↔ limbValue a < limbValue b) ∧ (cmp256 a b = .eq ↔ limbValue a = limbValue b) ∧
    (cmp256 a b = .gt ↔ limbValue b < limbValue a) ∧ (cmp256 a b = .lt ↔ cmp256 b a = .gt)) ∧
  (∀ a b c : Vector Word 4, cmp256 a b = .lt → cmp256 b c = .lt → cmp256 a c = .lt)

/-- R151, R154: CMP completes in every state: the result of comparing operand A with the threshold as numbers, BELOW iff
strictly below, ERR = OK, and nothing else changes. A CMP word with a reserved bit fails with ILLEGAL_CMD. -/
def Obligations.CmpComparesOperands : Prop :=
  (∀ s : State, ∃ t, exec .cmp s = .next t ∧
    (t.cmp = .lt ↔ limbValue s.cmpa < limbValue s.thr) ∧ (t.cmp = .eq ↔ limbValue s.cmpa = limbValue s.thr) ∧
    (t.cmp = .gt ↔ limbValue s.thr < limbValue s.cmpa) ∧
    (t.below = true ↔ limbValue s.cmpa < limbValue s.thr) ∧
    t = { s with cmp := t.cmp, below := t.below, err := .ok }) ∧
  (∀ (s : State) (w : Word), w.extractLsb' 0 8 = 0x04 → w.extractLsb' 8 56 ≠ 0 →
    performCommand w s = .next { s with err := .illegalCmd })

/-- R153, R154: CMPD completes in every FINALIZED state: the 32 first digest bytes, read as one big-endian number, against
the threshold, BELOW iff the result is LT; nothing else changes. In the other states it fails with INVALID_STATE; a CMPD
word with a reserved bit fails with ILLEGAL_CMD. -/
def Obligations.CmpdComparesDigest : Prop :=
  (∀ s : State, s.sstate = .finalized → ∃ t, exec .cmpd s = .next t ∧
    let d := bigEndianValue (s.digestBytes.take 32)
    (t.cmp = .lt ↔ d < limbValue s.thr) ∧ (t.cmp = .eq ↔ d = limbValue s.thr) ∧
    (t.cmp = .gt ↔ limbValue s.thr < d) ∧ (t.below = true ↔ t.cmp = .lt) ∧
    t = { s with cmp := t.cmp, below := t.below, err := .ok }) ∧
  (∀ s : State, s.sstate ≠ .finalized → exec .cmpd s = .next { s with err := .invalidState }) ∧
  (∀ (s : State) (w : Word), w.extractLsb' 0 8 = 0x05 → w.extractLsb' 8 56 ≠ 0 →
    performCommand w s = .next { s with err := .illegalCmd })

/-- R155: the four limbs CMPD forms spell the same number as the 32 digest bytes parsed big-endian. -/
def Obligations.DigestLimbsSpellDigest : Prop :=
  (∀ (d : Vector Byte 32) , limbValue (Vector.ofFn fun i : Fin 4 => be64 (Vector.ofFn fun k : Fin 8 => d[8 * i.val + k.val])) =
    ((List.finRange 32).map fun j => d[j].toNat * 2 ^ (8 * (31 - j.val))).sum) ∧
  (∀ s : State, limbValue s.digestNumber = bigEndianValue (s.digestBytes.take 32))

/-! ## The endian converter -/

/-- R160, R161: ENDIAN completes in every state: the value with byte 0 of ECV_IN the most significant goes to ECV_OUT
(value form) or to ECV_IN (in-place form), ERR = OK, and nothing else changes. An ENDIAN word with a reserved bit fails
with ILLEGAL_CMD. -/
def Obligations.EndianConverts : Prop :=
  (∀ s : State,
    let value := ((List.finRange 8).map fun k => (s.ecvIn.extractLsb' (8 * k.val) 8).toNat * 2 ^ (8 * (7 - k.val))).sum
    (∃ t, exec (.endian .value) s = .next t ∧ t.ecvOut.toNat = value ∧ t = { s with ecvOut := t.ecvOut, err := .ok }) ∧
    (∃ t, exec (.endian .inPlace) s = .next t ∧ t.ecvIn.toNat = value ∧ t = { s with ecvIn := t.ecvIn, err := .ok })) ∧
  (∀ (s : State) (w : Word), w.extractLsb' 0 8 = 0x06 → w.extractLsb' 9 55 ≠ 0 →
    performCommand w s = .next { s with err := .illegalCmd })

/-- R162: the in-place form applied twice restores ECV_IN; the value form applied to the value it returned gives back the
original register value. -/
def Obligations.EndianTwiceRestores : Prop :=
  ∀ s : State,
    (∃ t u, exec (.endian .inPlace) s = .next t ∧ exec (.endian .inPlace) t = .next u ∧
      u = { s with err := .ok }) ∧
    (∃ t u, exec (.endian .value) s = .next t ∧ exec (.endian .value) { t with ecvIn := t.ecvOut } = .next u ∧
      u.ecvOut = s.ecvIn)

/-! ## Rules of the whole machine -/

/-- R42 at reset. -/
def Obligations.InvariantAtReset : Prop :=
  ∀ base owner : Nat, base % 0x1000 = 0 → Inv (State.resetAt base owner)

/-- R42: every step keeps the invariants: FILL at most 128, OUTLEN and KEYLEN at most 64, BELOW iff LT, OUTLEN 0 iff no INIT
has succeeded (read as SSTATE = INIT, notes/assumptions/19.md), and with them what DOUT holds and the reset contents
before the first INIT. -/
def Obligations.InvariantKept : Prop :=
  ∀ s t : State, Inv s → step s = .next t → Inv t

/-- R125, R127, R129: every step keeps the agreement of the session counter and CCOUNT, and reset has it. -/
def Obligations.CountInvariantKept : Prop :=
  (∀ base owner, CountInv (State.resetAt base owner)) ∧
  (∀ s t : State, CountInv s → step s = .next t → CountInv t)

/-- R37: the moves of the session state, command by command. -/
def Obligations.SessionStateMoves : Prop :=
  ∀ (i : Instr) (s t : State), exec i s = .next t →
    match i with
    | .init _ _ _ => t.sstate = .absorbing ∧ (s.sstate = .absorbing ↔ t.err = .invalidState)
    | .absorb _ => t.sstate = s.sstate ∧ (s.sstate ≠ .absorbing ↔ t.err = .invalidState)
    | .final => (s.sstate = .absorbing → t.sstate = .finalized) ∧ (s.sstate ≠ .absorbing → t.sstate = s.sstate) ∧
        (s.sstate ≠ .absorbing ↔ t.err = .invalidState)
    | .cmp => t.sstate = s.sstate
    | .cmpd => t.sstate = s.sstate
    | .endian _ => t.sstate = s.sstate
    | .ctrinc _ => t.sstate = s.sstate

/-- R38: the strategy and the two lengths a session was opened with change only by the reset input or by a write to CMD of
an INIT word outside an open session. -/
def Obligations.SessionParametersLatched : Prop :=
  ∀ s t : State, step s = .next t →
    (t.strat = s.strat ∧ t.outlen = s.outlen ∧ t.keylen = s.keylen) ∨
    (∃ inFlight rest, s.pending = .reset inFlight :: rest) ∨
    (∃ w rest outlen keylen strat, s.pending = commandInput s.base s.owner w :: rest ∧
      decode w = .ok (.init outlen keylen strat) ∧ s.sstate ≠ .absorbing)

/-- R41: which commands write which flag, that no host write of an RW register touches one, that every word written to CMD
writes ERR, OK on success and a code on failure, and that no command reads ERR, CMP or BELOW: a comparison that succeeds
leaves the same state whatever they were, and any other command leaves states that differ only in CMP and BELOW, which it
keeps. -/
def Obligations.FlagWriters : Prop :=
  (∀ (i : Instr) (s t : State), exec i s = .next t →
    (t.cmp ≠ s.cmp ∨ t.below ≠ s.below → (i = .cmp ∨ i = .cmpd) ∧ t.err = .ok) ∧
    (t.fill ≠ s.fill → ((∃ o k st, i = .init o k st) ∨ ∃ len, i = .absorb len) ∧ t.err = .ok) ∧
    (t.sstate ≠ s.sstate → ((∃ o k st, i = .init o k st) ∨ i = .final) ∧ t.err = .ok)) ∧
  (∀ (s : State) (r : Reg) (v : Word), (s.writeReg r v).statusWord = s.statusWord) ∧
  (∀ (w : Word) (s : State),
    (∀ e : ErrCode, performCommand w { s with err := e } = performCommand w s) ∧
    ∃ t, performCommand w s = .next t ∧ (t.err ≠ .ok → t = { s with err := t.err })) ∧
  (∀ (i : Instr) (s : State) (e : ErrCode) (c : CmpResult) (b : Bool),
    (i = .cmp ∨ i = .cmpd ∧ s.sstate = .finalized →
      exec i { s with err := e, cmp := c, below := b } = exec i s) ∧
    (i ≠ .cmp → (i = .cmpd → s.sstate ≠ .finalized) →
      exec i { s with err := e, cmp := c, below := b } =
        onNext (fun t => { t with cmp := c, below := b }) (exec i s)))

/-- R200, R201, R203: every command completes with a code in ERR, never with a stop; one that reports a failure changes
nothing but ERR; an illegal word reports ILLEGAL_CMD whatever the session state, and INVALID_STATE is reported for a
decoded command only. -/
def Obligations.FailureChangesOnlyErr : Prop :=
  (∀ (i : Instr) (s : State), ∃ t, exec i s = .next t ∧ t.err ≠ .illegalCmd ∧ (t.err ≠ .ok → t = { s with err := t.err })) ∧
  (∀ (w : Word) (s : State), ∃ t, performCommand w s = .next t ∧ (t.err ≠ .ok → t = { s with err := t.err }) ∧
    (t.err = .illegalCmd ↔ ∀ i, decode w ≠ .ok i))

/-- R122, R124, R127, R143, R151, R153, R161: a command changes no byte of the window outside the registers its rule names
(`writtenRegs`; R26 to R30). That the window's base, the host's number, the host's program and the record of the last
answer are fields which no command changes is the model's choice (notes/assumptions/1.md, 2.md, 3.md, 8.md). -/
def Obligations.CommandFrames : Prop :=
  ∀ (i : Instr) (s t : State), exec i s = .next t →
    (∀ addr : Nat, (∀ r ∈ writtenRegs i, ¬(s.base + r.offset ≤ addr ∧ addr < s.base + r.offset + 8)) →
      t.windowByte addr = s.windowByte addr) ∧
    t.base = s.base ∧ t.owner = s.owner ∧ t.pending = s.pending ∧ t.reply = s.reply

/-- R222 item 1, R65, R67: a host whose accesses are its own, in the window, 64 bits wide and aligned is never stopped:
from every state, however long it runs. -/
def Obligations.LegalInputsNeverStop : Prop :=
  ∀ (s : State) (n : Nat), s.LegalInputs → s.SafeFor n

/-! ## Systems of instances -/

/-- R210, R220: an instance's move changes no other instance, but for the reset input, which resets all of them at
once. That a reset leaves the other instances' pending accesses and their stopped marks as they are is the model's choice
(notes/assumptions/13.md, 14.md, 23.md). -/
def Obligations.InstancesDoNotInterfere : Prop :=
  ∀ (sys : System) (j k : Nat) (sl other : Slot), sys.slots[k]? = some sl → sys.slots[j]? = some other → j ≠ k →
    (sl.resetIsNext = false → (sys.stepAt k).slots[j]? = some other) ∧
    (sl.resetIsNext = true → (sys.stepAt k).slots[j]? =
      some { core := { State.resetAt other.core.base other.core.owner with pending := other.core.pending },
             stopped := other.stopped }) ∧
    (sys.stepAt k).slots[k]? = some sl.advance

/-- R68: the moves of two instances, neither of them a reset, may be taken in either order. -/
def Obligations.InstanceMovesCommute : Prop :=
  ∀ (sys : System) (j k : Nat), j ≠ k →
    (∀ sl, sys.slots[j]? = some sl → sl.resetIsNext = false) →
    (∀ sl, sys.slots[k]? = some sl → sl.resetIsNext = false) →
    (sys.stepAt j).stepAt k = (sys.stepAt k).stepAt j

/-- R6, R60, R210, 93_implementation_defined.md U5: a well-placed system has at least one instance, its windows do not
overlap, and every move keeps it well placed and its number of instances. At reset it is well placed if its bases are
multiples of 0x1000, all different. -/
def Obligations.WindowsStayDisjoint : Prop :=
  (∀ (sys : System) (j k : Nat) (a b : Slot) (addr : Nat), sys.wellPlaced = true → j ≠ k →
    sys.slots[j]? = some a → sys.slots[k]? = some b → a.core.inWindow addr = true → b.core.inWindow addr = false) ∧
  (∀ (sys : System) (k : Nat), sys.wellPlaced = true →
    1 ≤ sys.slots.length ∧ (sys.stepAt k).wellPlaced = true ∧ (sys.stepAt k).slots.length = sys.slots.length) ∧
  (∀ places : List (Nat × Nat), places ≠ [] → (∀ p ∈ places, p.1 % 0x1000 = 0) → (places.map Prod.fst).Nodup →
    (System.reset places).wellPlaced = true)
end

