-- ==== Sys2Proof/Laws/State.lean ====
section
/-! SUPPORT. One lemma for each field under each update of the state that the shared operations make, so that no proof
unfolds them. -/

namespace Sys2Proof.Machine

@[simp] theorem State.setErr_base (s : State) (c : ErrCode) : (s.setErr c).base = s.base := rfl
@[simp] theorem State.setErr_owner (s : State) (c : ErrCode) : (s.setErr c).owner = s.owner := rfl
@[simp] theorem State.setErr_h (s : State) (c : ErrCode) : (s.setErr c).h = s.h := rfl
@[simp] theorem State.setErr_t (s : State) (c : ErrCode) : (s.setErr c).t = s.t := rfl
@[simp] theorem State.setErr_buf (s : State) (c : ErrCode) : (s.setErr c).buf = s.buf := rfl
@[simp] theorem State.setErr_fill (s : State) (c : ErrCode) : (s.setErr c).fill = s.fill := rfl
@[simp] theorem State.setErr_sstate (s : State) (c : ErrCode) : (s.setErr c).sstate = s.sstate := rfl
@[simp] theorem State.setErr_strat (s : State) (c : ErrCode) : (s.setErr c).strat = s.strat := rfl
@[simp] theorem State.setErr_outlen (s : State) (c : ErrCode) : (s.setErr c).outlen = s.outlen := rfl
@[simp] theorem State.setErr_keylen (s : State) (c : ErrCode) : (s.setErr c).keylen = s.keylen := rfl
@[simp] theorem State.setErr_ccount (s : State) (c : ErrCode) : (s.setErr c).ccount = s.ccount := rfl
@[simp] theorem State.setErr_err (s : State) (c : ErrCode) : (s.setErr c).err = c := rfl
@[simp] theorem State.setErr_cmp (s : State) (c : ErrCode) : (s.setErr c).cmp = s.cmp := rfl
@[simp] theorem State.setErr_below (s : State) (c : ErrCode) : (s.setErr c).below = s.below := rfl
@[simp] theorem State.setErr_dout (s : State) (c : ErrCode) : (s.setErr c).dout = s.dout := rfl
@[simp] theorem State.setErr_ecvOut (s : State) (c : ErrCode) : (s.setErr c).ecvOut = s.ecvOut := rfl
@[simp] theorem State.setErr_din (s : State) (c : ErrCode) : (s.setErr c).din = s.din := rfl
@[simp] theorem State.setErr_ecvIn (s : State) (c : ErrCode) : (s.setErr c).ecvIn = s.ecvIn := rfl
@[simp] theorem State.setErr_ctrN (s : State) (c : ErrCode) : (s.setErr c).ctrN = s.ctrN := rfl
@[simp] theorem State.setErr_ctrLo (s : State) (c : ErrCode) : (s.setErr c).ctrLo = s.ctrLo := rfl
@[simp] theorem State.setErr_ctrHi (s : State) (c : ErrCode) : (s.setErr c).ctrHi = s.ctrHi := rfl
@[simp] theorem State.setErr_key (s : State) (c : ErrCode) : (s.setErr c).key = s.key := rfl
@[simp] theorem State.setErr_cmpa (s : State) (c : ErrCode) : (s.setErr c).cmpa = s.cmpa := rfl
@[simp] theorem State.setErr_thr (s : State) (c : ErrCode) : (s.setErr c).thr = s.thr := rfl
@[simp] theorem State.setErr_pending (s : State) (c : ErrCode) : (s.setErr c).pending = s.pending := rfl
@[simp] theorem State.setErr_reply (s : State) (c : ErrCode) : (s.setErr c).reply = s.reply := rfl

@[simp] theorem State.answer_base (s : State) (r : Reply) : (s.answer r).base = s.base := rfl
@[simp] theorem State.answer_owner (s : State) (r : Reply) : (s.answer r).owner = s.owner := rfl
@[simp] theorem State.answer_h (s : State) (r : Reply) : (s.answer r).h = s.h := rfl
@[simp] theorem State.answer_t (s : State) (r : Reply) : (s.answer r).t = s.t := rfl
@[simp] theorem State.answer_buf (s : State) (r : Reply) : (s.answer r).buf = s.buf := rfl
@[simp] theorem State.answer_fill (s : State) (r : Reply) : (s.answer r).fill = s.fill := rfl
@[simp] theorem State.answer_sstate (s : State) (r : Reply) : (s.answer r).sstate = s.sstate := rfl
@[simp] theorem State.answer_strat (s : State) (r : Reply) : (s.answer r).strat = s.strat := rfl
@[simp] theorem State.answer_outlen (s : State) (r : Reply) : (s.answer r).outlen = s.outlen := rfl
@[simp] theorem State.answer_keylen (s : State) (r : Reply) : (s.answer r).keylen = s.keylen := rfl
@[simp] theorem State.answer_ccount (s : State) (r : Reply) : (s.answer r).ccount = s.ccount := rfl
@[simp] theorem State.answer_err (s : State) (r : Reply) : (s.answer r).err = s.err := rfl
@[simp] theorem State.answer_cmp (s : State) (r : Reply) : (s.answer r).cmp = s.cmp := rfl
@[simp] theorem State.answer_below (s : State) (r : Reply) : (s.answer r).below = s.below := rfl
@[simp] theorem State.answer_dout (s : State) (r : Reply) : (s.answer r).dout = s.dout := rfl
@[simp] theorem State.answer_ecvOut (s : State) (r : Reply) : (s.answer r).ecvOut = s.ecvOut := rfl
@[simp] theorem State.answer_din (s : State) (r : Reply) : (s.answer r).din = s.din := rfl
@[simp] theorem State.answer_ecvIn (s : State) (r : Reply) : (s.answer r).ecvIn = s.ecvIn := rfl
@[simp] theorem State.answer_ctrN (s : State) (r : Reply) : (s.answer r).ctrN = s.ctrN := rfl
@[simp] theorem State.answer_ctrLo (s : State) (r : Reply) : (s.answer r).ctrLo = s.ctrLo := rfl
@[simp] theorem State.answer_ctrHi (s : State) (r : Reply) : (s.answer r).ctrHi = s.ctrHi := rfl
@[simp] theorem State.answer_key (s : State) (r : Reply) : (s.answer r).key = s.key := rfl
@[simp] theorem State.answer_cmpa (s : State) (r : Reply) : (s.answer r).cmpa = s.cmpa := rfl
@[simp] theorem State.answer_thr (s : State) (r : Reply) : (s.answer r).thr = s.thr := rfl
@[simp] theorem State.answer_pending (s : State) (r : Reply) : (s.answer r).pending = s.pending := rfl
@[simp] theorem State.answer_reply (s : State) (r : Reply) : (s.answer r).reply = r := rfl

@[simp] theorem State.setComparison_base (s : State) (r : CmpResult) : (s.setComparison r).base = s.base := rfl
@[simp] theorem State.setComparison_owner (s : State) (r : CmpResult) : (s.setComparison r).owner = s.owner := rfl
@[simp] theorem State.setComparison_h (s : State) (r : CmpResult) : (s.setComparison r).h = s.h := rfl
@[simp] theorem State.setComparison_t (s : State) (r : CmpResult) : (s.setComparison r).t = s.t := rfl
@[simp] theorem State.setComparison_buf (s : State) (r : CmpResult) : (s.setComparison r).buf = s.buf := rfl
@[simp] theorem State.setComparison_fill (s : State) (r : CmpResult) : (s.setComparison r).fill = s.fill := rfl
@[simp] theorem State.setComparison_sstate (s : State) (r : CmpResult) : (s.setComparison r).sstate = s.sstate := rfl
@[simp] theorem State.setComparison_strat (s : State) (r : CmpResult) : (s.setComparison r).strat = s.strat := rfl
@[simp] theorem State.setComparison_outlen (s : State) (r : CmpResult) : (s.setComparison r).outlen = s.outlen := rfl
@[simp] theorem State.setComparison_keylen (s : State) (r : CmpResult) : (s.setComparison r).keylen = s.keylen := rfl
@[simp] theorem State.setComparison_ccount (s : State) (r : CmpResult) : (s.setComparison r).ccount = s.ccount := rfl
@[simp] theorem State.setComparison_err (s : State) (r : CmpResult) : (s.setComparison r).err = s.err := rfl
@[simp] theorem State.setComparison_cmp (s : State) (r : CmpResult) : (s.setComparison r).cmp = r := rfl
@[simp] theorem State.setComparison_below (s : State) (r : CmpResult) : (s.setComparison r).below = decide (r = .lt) := rfl
@[simp] theorem State.setComparison_dout (s : State) (r : CmpResult) : (s.setComparison r).dout = s.dout := rfl
@[simp] theorem State.setComparison_ecvOut (s : State) (r : CmpResult) : (s.setComparison r).ecvOut = s.ecvOut := rfl
@[simp] theorem State.setComparison_din (s : State) (r : CmpResult) : (s.setComparison r).din = s.din := rfl
@[simp] theorem State.setComparison_ecvIn (s : State) (r : CmpResult) : (s.setComparison r).ecvIn = s.ecvIn := rfl
@[simp] theorem State.setComparison_ctrN (s : State) (r : CmpResult) : (s.setComparison r).ctrN = s.ctrN := rfl
@[simp] theorem State.setComparison_ctrLo (s : State) (r : CmpResult) : (s.setComparison r).ctrLo = s.ctrLo := rfl
@[simp] theorem State.setComparison_ctrHi (s : State) (r : CmpResult) : (s.setComparison r).ctrHi = s.ctrHi := rfl
@[simp] theorem State.setComparison_key (s : State) (r : CmpResult) : (s.setComparison r).key = s.key := rfl
@[simp] theorem State.setComparison_cmpa (s : State) (r : CmpResult) : (s.setComparison r).cmpa = s.cmpa := rfl
@[simp] theorem State.setComparison_thr (s : State) (r : CmpResult) : (s.setComparison r).thr = s.thr := rfl
@[simp] theorem State.setComparison_pending (s : State) (r : CmpResult) : (s.setComparison r).pending = s.pending := rfl
@[simp] theorem State.setComparison_reply (s : State) (r : CmpResult) : (s.setComparison r).reply = s.reply := rfl

@[simp] theorem State.compress_base (s : State) (n : Word) (last : Bool) : (s.compress n last).base = s.base := rfl
@[simp] theorem State.compress_owner (s : State) (n : Word) (last : Bool) : (s.compress n last).owner = s.owner := rfl
@[simp] theorem State.compress_h (s : State) (n : Word) (last : Bool) : (s.compress n last).h = compressF s.h (messageBlock s.buf) (inc s.strat s.t n) last := rfl
@[simp] theorem State.compress_t (s : State) (n : Word) (last : Bool) : (s.compress n last).t = inc s.strat s.t n := rfl
@[simp] theorem State.compress_buf (s : State) (n : Word) (last : Bool) : (s.compress n last).buf = s.buf := rfl
@[simp] theorem State.compress_fill (s : State) (n : Word) (last : Bool) : (s.compress n last).fill = s.fill := rfl
@[simp] theorem State.compress_sstate (s : State) (n : Word) (last : Bool) : (s.compress n last).sstate = s.sstate := rfl
@[simp] theorem State.compress_strat (s : State) (n : Word) (last : Bool) : (s.compress n last).strat = s.strat := rfl
@[simp] theorem State.compress_outlen (s : State) (n : Word) (last : Bool) : (s.compress n last).outlen = s.outlen := rfl
@[simp] theorem State.compress_keylen (s : State) (n : Word) (last : Bool) : (s.compress n last).keylen = s.keylen := rfl
@[simp] theorem State.compress_ccount (s : State) (n : Word) (last : Bool) : (s.compress n last).ccount = s.ccount + 1 := rfl
@[simp] theorem State.compress_err (s : State) (n : Word) (last : Bool) : (s.compress n last).err = s.err := rfl
@[simp] theorem State.compress_cmp (s : State) (n : Word) (last : Bool) : (s.compress n last).cmp = s.cmp := rfl
@[simp] theorem State.compress_below (s : State) (n : Word) (last : Bool) : (s.compress n last).below = s.below := rfl
@[simp] theorem State.compress_dout (s : State) (n : Word) (last : Bool) : (s.compress n last).dout = s.dout := rfl
@[simp] theorem State.compress_ecvOut (s : State) (n : Word) (last : Bool) : (s.compress n last).ecvOut = s.ecvOut := rfl
@[simp] theorem State.compress_din (s : State) (n : Word) (last : Bool) : (s.compress n last).din = s.din := rfl
@[simp] theorem State.compress_ecvIn (s : State) (n : Word) (last : Bool) : (s.compress n last).ecvIn = s.ecvIn := rfl
@[simp] theorem State.compress_ctrN (s : State) (n : Word) (last : Bool) : (s.compress n last).ctrN = s.ctrN := rfl
@[simp] theorem State.compress_ctrLo (s : State) (n : Word) (last : Bool) : (s.compress n last).ctrLo = s.ctrLo := rfl
@[simp] theorem State.compress_ctrHi (s : State) (n : Word) (last : Bool) : (s.compress n last).ctrHi = s.ctrHi := rfl
@[simp] theorem State.compress_key (s : State) (n : Word) (last : Bool) : (s.compress n last).key = s.key := rfl
@[simp] theorem State.compress_cmpa (s : State) (n : Word) (last : Bool) : (s.compress n last).cmpa = s.cmpa := rfl
@[simp] theorem State.compress_thr (s : State) (n : Word) (last : Bool) : (s.compress n last).thr = s.thr := rfl
@[simp] theorem State.compress_pending (s : State) (n : Word) (last : Bool) : (s.compress n last).pending = s.pending := rfl
@[simp] theorem State.compress_reply (s : State) (n : Word) (last : Bool) : (s.compress n last).reply = s.reply := rfl

@[simp] theorem State.appendByte_base (s : State) (x : Byte) : (s.appendByte x).base = s.base := rfl
@[simp] theorem State.appendByte_owner (s : State) (x : Byte) : (s.appendByte x).owner = s.owner := rfl
@[simp] theorem State.appendByte_h (s : State) (x : Byte) : (s.appendByte x).h = s.h := rfl
@[simp] theorem State.appendByte_t (s : State) (x : Byte) : (s.appendByte x).t = s.t := rfl
@[simp] theorem State.appendByte_buf (s : State) (x : Byte) : (s.appendByte x).buf = s.buf.setIfInBounds s.fill.toNat x := rfl
@[simp] theorem State.appendByte_fill (s : State) (x : Byte) : (s.appendByte x).fill = s.fill + 1 := rfl
@[simp] theorem State.appendByte_sstate (s : State) (x : Byte) : (s.appendByte x).sstate = s.sstate := rfl
@[simp] theorem State.appendByte_strat (s : State) (x : Byte) : (s.appendByte x).strat = s.strat := rfl
@[simp] theorem State.appendByte_outlen (s : State) (x : Byte) : (s.appendByte x).outlen = s.outlen := rfl
@[simp] theorem State.appendByte_keylen (s : State) (x : Byte) : (s.appendByte x).keylen = s.keylen := rfl
@[simp] theorem State.appendByte_ccount (s : State) (x : Byte) : (s.appendByte x).ccount = s.ccount := rfl
@[simp] theorem State.appendByte_err (s : State) (x : Byte) : (s.appendByte x).err = s.err := rfl
@[simp] theorem State.appendByte_cmp (s : State) (x : Byte) : (s.appendByte x).cmp = s.cmp := rfl
@[simp] theorem State.appendByte_below (s : State) (x : Byte) : (s.appendByte x).below = s.below := rfl
@[simp] theorem State.appendByte_dout (s : State) (x : Byte) : (s.appendByte x).dout = s.dout := rfl
@[simp] theorem State.appendByte_ecvOut (s : State) (x : Byte) : (s.appendByte x).ecvOut = s.ecvOut := rfl
@[simp] theorem State.appendByte_din (s : State) (x : Byte) : (s.appendByte x).din = s.din := rfl
@[simp] theorem State.appendByte_ecvIn (s : State) (x : Byte) : (s.appendByte x).ecvIn = s.ecvIn := rfl
@[simp] theorem State.appendByte_ctrN (s : State) (x : Byte) : (s.appendByte x).ctrN = s.ctrN := rfl
@[simp] theorem State.appendByte_ctrLo (s : State) (x : Byte) : (s.appendByte x).ctrLo = s.ctrLo := rfl
@[simp] theorem State.appendByte_ctrHi (s : State) (x : Byte) : (s.appendByte x).ctrHi = s.ctrHi := rfl
@[simp] theorem State.appendByte_key (s : State) (x : Byte) : (s.appendByte x).key = s.key := rfl
@[simp] theorem State.appendByte_cmpa (s : State) (x : Byte) : (s.appendByte x).cmpa = s.cmpa := rfl
@[simp] theorem State.appendByte_thr (s : State) (x : Byte) : (s.appendByte x).thr = s.thr := rfl
@[simp] theorem State.appendByte_pending (s : State) (x : Byte) : (s.appendByte x).pending = s.pending := rfl
@[simp] theorem State.appendByte_reply (s : State) (x : Byte) : (s.appendByte x).reply = s.reply := rfl

@[simp] theorem State.applyReset_base (s : State) : (s.applyReset).base = s.base := rfl
@[simp] theorem State.applyReset_owner (s : State) : (s.applyReset).owner = s.owner := rfl
@[simp] theorem State.applyReset_h (s : State) : (s.applyReset).h = (State.resetAt s.base s.owner).h := rfl
@[simp] theorem State.applyReset_t (s : State) : (s.applyReset).t = (State.resetAt s.base s.owner).t := rfl
@[simp] theorem State.applyReset_buf (s : State) : (s.applyReset).buf = (State.resetAt s.base s.owner).buf := rfl
@[simp] theorem State.applyReset_fill (s : State) : (s.applyReset).fill = (State.resetAt s.base s.owner).fill := rfl
@[simp] theorem State.applyReset_sstate (s : State) : (s.applyReset).sstate = (State.resetAt s.base s.owner).sstate := rfl
@[simp] theorem State.applyReset_strat (s : State) : (s.applyReset).strat = (State.resetAt s.base s.owner).strat := rfl
@[simp] theorem State.applyReset_outlen (s : State) : (s.applyReset).outlen = (State.resetAt s.base s.owner).outlen := rfl
@[simp] theorem State.applyReset_keylen (s : State) : (s.applyReset).keylen = (State.resetAt s.base s.owner).keylen := rfl
@[simp] theorem State.applyReset_ccount (s : State) : (s.applyReset).ccount = (State.resetAt s.base s.owner).ccount := rfl
@[simp] theorem State.applyReset_err (s : State) : (s.applyReset).err = (State.resetAt s.base s.owner).err := rfl
@[simp] theorem State.applyReset_cmp (s : State) : (s.applyReset).cmp = (State.resetAt s.base s.owner).cmp := rfl
@[simp] theorem State.applyReset_below (s : State) : (s.applyReset).below = (State.resetAt s.base s.owner).below := rfl
@[simp] theorem State.applyReset_dout (s : State) : (s.applyReset).dout = (State.resetAt s.base s.owner).dout := rfl
@[simp] theorem State.applyReset_ecvOut (s : State) : (s.applyReset).ecvOut = (State.resetAt s.base s.owner).ecvOut := rfl
@[simp] theorem State.applyReset_din (s : State) : (s.applyReset).din = (State.resetAt s.base s.owner).din := rfl
@[simp] theorem State.applyReset_ecvIn (s : State) : (s.applyReset).ecvIn = (State.resetAt s.base s.owner).ecvIn := rfl
@[simp] theorem State.applyReset_ctrN (s : State) : (s.applyReset).ctrN = (State.resetAt s.base s.owner).ctrN := rfl
@[simp] theorem State.applyReset_ctrLo (s : State) : (s.applyReset).ctrLo = (State.resetAt s.base s.owner).ctrLo := rfl
@[simp] theorem State.applyReset_ctrHi (s : State) : (s.applyReset).ctrHi = (State.resetAt s.base s.owner).ctrHi := rfl
@[simp] theorem State.applyReset_key (s : State) : (s.applyReset).key = (State.resetAt s.base s.owner).key := rfl
@[simp] theorem State.applyReset_cmpa (s : State) : (s.applyReset).cmpa = (State.resetAt s.base s.owner).cmpa := rfl
@[simp] theorem State.applyReset_thr (s : State) : (s.applyReset).thr = (State.resetAt s.base s.owner).thr := rfl
@[simp] theorem State.applyReset_pending (s : State) : (s.applyReset).pending = s.pending := rfl
@[simp] theorem State.applyReset_reply (s : State) : (s.applyReset).reply = (State.resetAt s.base s.owner).reply := rfl

/-! ### Outcomes -/

@[simp] theorem fail_eq (c : ErrCode) (s : State) : fail c s = .next (s.setErr c) := rfl

@[simp] theorem succeed_eq (s : State) : succeed s = .next (s.setErr .ok) := rfl

@[simp] theorem onNext_next (f : State → State) (s : State) : onNext f (.next s) = .next (f s) := rfl

@[simp] theorem onNext_fault (f : State → State) (r : Fault) : onNext f (.fault r) = .fault r := rfl

@[simp] theorem onNext_refused (f : State → State) (r : Refusal) : onNext f (.refused r) = .refused r := rfl

theorem State.resetAt_pending (base owner : Nat) : (State.resetAt base owner).pending = [] := rfl

end Sys2Proof.Machine
end

