-- ==== Sys2Proof/Laws/Bus.lean ====
section
/-! SUPPORT. The register map is one to one, and what a step is when the next input is an access the CORE accepts, a
write to CMD, or a reset: the lemmas every proof about `step` cites. -/

namespace Sys2Proof.Machine

/-- Every register is in the list of registers. -/
theorem mem_allRegs (r : Reg) : r ∈ allRegs := by
  cases r <;> simp [allRegs]

/-- Every register lies in the window, at a multiple of 8 (10_state.md R22). -/
theorem offset_lt (r : Reg) : r.offset < Config.windowSize := by
  have h : ∀ r ∈ allRegs, r.offset < Config.windowSize := by decide
  exact h r (mem_allRegs r)

theorem offset_mod (r : Reg) : r.offset % 8 = 0 := by
  have h : ∀ r ∈ allRegs, r.offset % 8 = 0 := by decide
  exact h r (mem_allRegs r)

/-- An offset that is mapped is its register's (10_state.md R22). -/
theorem offset_of_regAt {off : Nat} {r : Reg} (h : regAt off = some r) : r.offset = off := by
  simpa using List.find?_some h

/-- The register map finds each register at its offset (10_state.md R22). -/
theorem regAt_offset (r : Reg) : regAt r.offset = some r := by
  have h : ∀ r ∈ allRegs, regAt r.offset = some r := by decide +kernel
  exact h r (mem_allRegs r)

/-- Different registers have different offsets (10_state.md R22). -/
theorem offset_injective {r q : Reg} (h : r.offset = q.offset) : r = q := by
  have := regAt_offset r
  rw [h, regAt_offset] at this
  exact (Option.some.inj this).symm

@[simp] theorem readOffset_offset (s : State) (r : Reg) : s.readOffset r.offset = s.readReg r := by
  simp [State.readOffset, regAt_offset]

/-- An accepted access of the host is performed, on the state with the access taken from its program. -/
theorem step_access (s : State) (a : BusAccess) (rest : List Input) (hw : s.inWindow a.addr = true)
    (ha : s.accepts a = true) :
    step { s with pending := .bus s.owner a :: rest } = performAccess a { s with pending := rest } := by
  have hw' : ({ s with pending := rest } : State).inWindow a.addr = true := hw
  have ha' : ({ s with pending := rest } : State).accepts a = true := ha
  simp [step, takeInput, busCycle, hw', ha']

/-- A 64-bit read at an offset that is a multiple of 8. -/
theorem step_read (s : State) (off : Nat) (rest : List Input) (ho : off < Config.windowSize) (h8 : off % 8 = 0) :
    step { s with pending := .bus s.owner (.read (s.base + off) 8) :: rest } =
      .next { s with pending := rest, reply := .data (s.readOffset off) } := by
  rw [step_access]
  · simp only [performAccess, State.answer, Nat.add_sub_cancel_left]
    rfl
  · simpa [State.inWindow, BusAccess.addr] using ho
  · simp [State.accepts, BusAccess.addr, BusAccess.width, h8]

/-- A 64-bit write at an offset that is a multiple of 8. -/
theorem step_write (s : State) (off : Nat) (v : Word) (rest : List Input) (ho : off < Config.windowSize)
    (h8 : off % 8 = 0) :
    step { s with pending := .bus s.owner (.write (s.base + off) 8 v) :: rest } =
      onNext (State.answer .written) (writeOffset off v { s with pending := rest }) := by
  rw [step_access]
  · simp only [performAccess, Nat.add_sub_cancel_left]
  · simpa [State.inWindow, BusAccess.addr] using ho
  · simp [State.accepts, BusAccess.addr, BusAccess.width, h8]

/-- A write to CMD is one step that performs the command. -/
theorem step_command (s : State) (w : Word) (rest : List Input) :
    step { s with pending := commandInput s.base s.owner w :: rest } =
      onNext (State.answer .written) (performCommand w { s with pending := rest }) := by
  rw [commandInput, step_write s (Reg.offset .cmd) w rest (offset_lt _) (offset_mod _), writeOffset, regAt_offset]

/-- A write of a register other than CMD stores at most its value. -/
theorem writeOffset_offset (s : State) (r : Reg) (v : Word) (h : r ≠ .cmd) :
    writeOffset r.offset v s = .next (s.writeReg r v) := by
  rw [writeOffset, regAt_offset]
  cases r <;> first | rfl | exact absurd rfl h

theorem step_reset (s : State) (inFlight : Option BusAccess) (rest : List Input) :
    step { s with pending := .reset inFlight :: rest } =
      .next { State.resetAt s.base s.owner with pending := rest } := rfl

/-- A write of a register changes none of the host's side, and no constant of the instance. -/
theorem writeReg_host (s : State) (r : Reg) (v : Word) :
    (s.writeReg r v).base = s.base ∧ (s.writeReg r v).owner = s.owner ∧ (s.writeReg r v).pending = s.pending ∧
      (s.writeReg r v).reply = s.reply := by
  cases r <;> exact ⟨rfl, rfl, rfl, rfl⟩

end Sys2Proof.Machine
end

