-- ==== Sys2Proof/Laws/Bytes.lean ====
section
/-! SUPPORT. What the fields and byte lanes of a word are, bit by bit and byte by byte. -/

namespace Sys2Proof

/-- The bits of a placed field. -/
theorem getLsbD_field {n : Nat} (v : BitVec n) (lo j : Nat) :
    (field v lo).getLsbD j = (decide (j < 64) && (decide (lo ≤ j) && v.getLsbD (j - lo))) := by
  by_cases hj : j < 64 <;> by_cases hl : lo ≤ j <;> simp [field, hj, hl]

/-- A slice of a word is the field whose bits it has. -/
theorem extract_eq_of_bits {n : Nat} (w : Word) (lo : Nat) (v : BitVec n)
    (h : ∀ j, j < n → w.getLsbD (lo + j) = v.getLsbD j) : w.extractLsb' lo n = v := by
  apply BitVec.eq_of_getLsbD_eq
  intro j hj
  simp [hj, h j hj]

/-- The bits of a byte lane. -/
theorem getLsbD_byteLane (w : Word) (k j : Nat) :
    (byteLane w k).getLsbD j = (decide (j < 8) && w.getLsbD (8 * k + j)) := by simp [byteLane]

theorem lanes_get (w : Word) (k : Nat) (h : k < 8) : (lanes w)[k] = byteLane w k := by simp [lanes]

/-- Two words with the same eight byte lanes are equal. -/
theorem word_ext_lanes {x y : Word} (h : ∀ k : Fin 8, byteLane x k.val = byteLane y k.val) : x = y := by
  apply BitVec.eq_of_getLsbD_eq
  intro i hi
  have hk := congrArg (fun b => b.getLsbD (i % 8)) (h ⟨i / 8, by omega⟩)
  have h8 : i % 8 < 8 := Nat.mod_lt _ (by decide)
  simpa only [getLsbD_byteLane, h8, Nat.div_add_mod, decide_true, Bool.true_and] using hk

/-- Byte `k` of `LE64(b)` is `b[k]`. -/
theorem byteLane_le64 (b : Vector Byte 8) (k : Fin 8) : byteLane (le64 b) k.val = b[k] := by
  apply BitVec.eq_of_getLsbD_eq
  intro i hi
  fin_cases k <;> interval_cases i <;> simp [byteLane, le64, field]

/-- Byte `k` of `BE64(b)` is `b[7-k]`. -/
theorem byteLane_be64 (b : Vector Byte 8) (k : Fin 8) : byteLane (be64 b) k.val = b[7 - k.val] := by
  apply BitVec.eq_of_getLsbD_eq
  intro i hi
  fin_cases k <;> interval_cases i <;> simp [byteLane, be64, field]

/-- `LE64` of a word's lanes is the word. -/
theorem le64_lanes (w : Word) : le64 (lanes w) = w :=
  word_ext_lanes fun k => by rw [byteLane_le64]; exact lanes_get w k.val k.isLt

/-- Byte `k` of `bswap64(x)` is byte `7-k` of `x` (00_scope.md R8). -/
theorem byteLane_bswap64 (x : Word) (k : Fin 8) : byteLane (bswap64 x) k.val = byteLane x (7 - k.val) := by
  rw [bswap64, byteLane_be64]
  exact lanes_get x (7 - k.val) (by omega)

/-- The code of a strategy is its bit, and back. -/
theorem code_ofBit_strategy (b : BitVec 1) : (Strategy.ofBit b).code = b := by revert b; decide

theorem ofBit_code_strategy (s : Strategy) : Strategy.ofBit s.code = s := by cases s <;> decide

theorem code_ofBit_form (b : BitVec 1) : (EndianForm.ofBit b).code = b := by revert b; decide

theorem ofBit_code_form (f : EndianForm) : EndianForm.ofBit f.code = f := by cases f <;> decide

end Sys2Proof
end

