-- ==== Sys2Proof/Laws/Session.lean ====
section
/-! SUPPORT. What the session's shared operations can change, said once: absorbing bytes touches the chain, the counter, the
buffer, FILL and CCOUNT and nothing else. -/

namespace Sys2Proof.Machine

/-- The frame of one absorbed byte. -/
theorem absorbByte_frame (s : State) (x : Byte) :
    s.absorbByte x = { s with
      h := (s.absorbByte x).h, t := (s.absorbByte x).t, buf := (s.absorbByte x).buf, fill := (s.absorbByte x).fill,
      ccount := (s.absorbByte x).ccount } := by
  unfold State.absorbByte
  split <;> rfl

@[simp] theorem absorbBytes_nil (s : State) : s.absorbBytes [] = s := rfl

@[simp] theorem absorbBytes_cons (s : State) (x : Byte) (l : List Byte) :
    s.absorbBytes (x :: l) = (s.absorbByte x).absorbBytes l := rfl

/-- Absorbing is byte by byte, so it splits anywhere (41_session.md R126). -/
theorem absorbBytes_append (s : State) (l m : List Byte) :
    s.absorbBytes (l ++ m) = (s.absorbBytes l).absorbBytes m := by simp [State.absorbBytes]

/-- The frame of absorbing bytes. -/
theorem absorbBytes_frame (s : State) (l : List Byte) :
    s.absorbBytes l = { s with
      h := (s.absorbBytes l).h, t := (s.absorbBytes l).t, buf := (s.absorbBytes l).buf,
      fill := (s.absorbBytes l).fill, ccount := (s.absorbBytes l).ccount } := by
  induction l generalizing s with
  | nil => rfl
  | cons x l ih =>
    rw [absorbBytes_cons, ih, absorbByte_frame]

/-! ### What absorbing leaves alone, field by field -/

@[simp] theorem absorbByte_base (s : State) (x : Byte) : (s.absorbByte x).base = s.base := by
  rw [absorbByte_frame]
@[simp] theorem absorbByte_owner (s : State) (x : Byte) : (s.absorbByte x).owner = s.owner := by
  rw [absorbByte_frame]
@[simp] theorem absorbByte_sstate (s : State) (x : Byte) : (s.absorbByte x).sstate = s.sstate := by
  rw [absorbByte_frame]
@[simp] theorem absorbByte_strat (s : State) (x : Byte) : (s.absorbByte x).strat = s.strat := by
  rw [absorbByte_frame]
@[simp] theorem absorbByte_outlen (s : State) (x : Byte) : (s.absorbByte x).outlen = s.outlen := by
  rw [absorbByte_frame]
@[simp] theorem absorbByte_keylen (s : State) (x : Byte) : (s.absorbByte x).keylen = s.keylen := by
  rw [absorbByte_frame]
@[simp] theorem absorbByte_err (s : State) (x : Byte) : (s.absorbByte x).err = s.err := by
  rw [absorbByte_frame]
@[simp] theorem absorbByte_cmp (s : State) (x : Byte) : (s.absorbByte x).cmp = s.cmp := by
  rw [absorbByte_frame]
@[simp] theorem absorbByte_below (s : State) (x : Byte) : (s.absorbByte x).below = s.below := by
  rw [absorbByte_frame]
@[simp] theorem absorbByte_dout (s : State) (x : Byte) : (s.absorbByte x).dout = s.dout := by
  rw [absorbByte_frame]
@[simp] theorem absorbByte_ecvOut (s : State) (x : Byte) : (s.absorbByte x).ecvOut = s.ecvOut := by
  rw [absorbByte_frame]
@[simp] theorem absorbByte_din (s : State) (x : Byte) : (s.absorbByte x).din = s.din := by
  rw [absorbByte_frame]
@[simp] theorem absorbByte_ecvIn (s : State) (x : Byte) : (s.absorbByte x).ecvIn = s.ecvIn := by
  rw [absorbByte_frame]
@[simp] theorem absorbByte_ctrN (s : State) (x : Byte) : (s.absorbByte x).ctrN = s.ctrN := by
  rw [absorbByte_frame]
@[simp] theorem absorbByte_ctrLo (s : State) (x : Byte) : (s.absorbByte x).ctrLo = s.ctrLo := by
  rw [absorbByte_frame]
@[simp] theorem absorbByte_ctrHi (s : State) (x : Byte) : (s.absorbByte x).ctrHi = s.ctrHi := by
  rw [absorbByte_frame]
@[simp] theorem absorbByte_key (s : State) (x : Byte) : (s.absorbByte x).key = s.key := by
  rw [absorbByte_frame]
@[simp] theorem absorbByte_cmpa (s : State) (x : Byte) : (s.absorbByte x).cmpa = s.cmpa := by
  rw [absorbByte_frame]
@[simp] theorem absorbByte_thr (s : State) (x : Byte) : (s.absorbByte x).thr = s.thr := by
  rw [absorbByte_frame]
@[simp] theorem absorbByte_pending (s : State) (x : Byte) : (s.absorbByte x).pending = s.pending := by
  rw [absorbByte_frame]
@[simp] theorem absorbByte_reply (s : State) (x : Byte) : (s.absorbByte x).reply = s.reply := by
  rw [absorbByte_frame]

@[simp] theorem absorbBytes_base (s : State) (l : List Byte) : (s.absorbBytes l).base = s.base := by
  rw [absorbBytes_frame]
@[simp] theorem absorbBytes_owner (s : State) (l : List Byte) : (s.absorbBytes l).owner = s.owner := by
  rw [absorbBytes_frame]
@[simp] theorem absorbBytes_sstate (s : State) (l : List Byte) : (s.absorbBytes l).sstate = s.sstate := by
  rw [absorbBytes_frame]
@[simp] theorem absorbBytes_strat (s : State) (l : List Byte) : (s.absorbBytes l).strat = s.strat := by
  rw [absorbBytes_frame]
@[simp] theorem absorbBytes_outlen (s : State) (l : List Byte) : (s.absorbBytes l).outlen = s.outlen := by
  rw [absorbBytes_frame]
@[simp] theorem absorbBytes_keylen (s : State) (l : List Byte) : (s.absorbBytes l).keylen = s.keylen := by
  rw [absorbBytes_frame]
@[simp] theorem absorbBytes_err (s : State) (l : List Byte) : (s.absorbBytes l).err = s.err := by
  rw [absorbBytes_frame]
@[simp] theorem absorbBytes_cmp (s : State) (l : List Byte) : (s.absorbBytes l).cmp = s.cmp := by
  rw [absorbBytes_frame]
@[simp] theorem absorbBytes_below (s : State) (l : List Byte) : (s.absorbBytes l).below = s.below := by
  rw [absorbBytes_frame]
@[simp] theorem absorbBytes_dout (s : State) (l : List Byte) : (s.absorbBytes l).dout = s.dout := by
  rw [absorbBytes_frame]
@[simp] theorem absorbBytes_ecvOut (s : State) (l : List Byte) : (s.absorbBytes l).ecvOut = s.ecvOut := by
  rw [absorbBytes_frame]
@[simp] theorem absorbBytes_din (s : State) (l : List Byte) : (s.absorbBytes l).din = s.din := by
  rw [absorbBytes_frame]
@[simp] theorem absorbBytes_ecvIn (s : State) (l : List Byte) : (s.absorbBytes l).ecvIn = s.ecvIn := by
  rw [absorbBytes_frame]
@[simp] theorem absorbBytes_ctrN (s : State) (l : List Byte) : (s.absorbBytes l).ctrN = s.ctrN := by
  rw [absorbBytes_frame]
@[simp] theorem absorbBytes_ctrLo (s : State) (l : List Byte) : (s.absorbBytes l).ctrLo = s.ctrLo := by
  rw [absorbBytes_frame]
@[simp] theorem absorbBytes_ctrHi (s : State) (l : List Byte) : (s.absorbBytes l).ctrHi = s.ctrHi := by
  rw [absorbBytes_frame]
@[simp] theorem absorbBytes_key (s : State) (l : List Byte) : (s.absorbBytes l).key = s.key := by
  rw [absorbBytes_frame]
@[simp] theorem absorbBytes_cmpa (s : State) (l : List Byte) : (s.absorbBytes l).cmpa = s.cmpa := by
  rw [absorbBytes_frame]
@[simp] theorem absorbBytes_thr (s : State) (l : List Byte) : (s.absorbBytes l).thr = s.thr := by
  rw [absorbBytes_frame]
@[simp] theorem absorbBytes_pending (s : State) (l : List Byte) : (s.absorbBytes l).pending = s.pending := by
  rw [absorbBytes_frame]
@[simp] theorem absorbBytes_reply (s : State) (l : List Byte) : (s.absorbBytes l).reply = s.reply := by
  rw [absorbBytes_frame]

@[simp] theorem closeSession_base (s : State) : s.closeSession.base = s.base := rfl
@[simp] theorem closeSession_owner (s : State) : s.closeSession.owner = s.owner := rfl
@[simp] theorem closeSession_strat (s : State) : s.closeSession.strat = s.strat := rfl
@[simp] theorem closeSession_outlen (s : State) : s.closeSession.outlen = s.outlen := rfl
@[simp] theorem closeSession_keylen (s : State) : s.closeSession.keylen = s.keylen := rfl
@[simp] theorem closeSession_err (s : State) : s.closeSession.err = s.err := rfl
@[simp] theorem closeSession_cmp (s : State) : s.closeSession.cmp = s.cmp := rfl
@[simp] theorem closeSession_below (s : State) : s.closeSession.below = s.below := rfl
@[simp] theorem closeSession_ecvOut (s : State) : s.closeSession.ecvOut = s.ecvOut := rfl
@[simp] theorem closeSession_din (s : State) : s.closeSession.din = s.din := rfl
@[simp] theorem closeSession_ecvIn (s : State) : s.closeSession.ecvIn = s.ecvIn := rfl
@[simp] theorem closeSession_ctrN (s : State) : s.closeSession.ctrN = s.ctrN := rfl
@[simp] theorem closeSession_ctrLo (s : State) : s.closeSession.ctrLo = s.ctrLo := rfl
@[simp] theorem closeSession_ctrHi (s : State) : s.closeSession.ctrHi = s.ctrHi := rfl
@[simp] theorem closeSession_key (s : State) : s.closeSession.key = s.key := rfl
@[simp] theorem closeSession_cmpa (s : State) : s.closeSession.cmpa = s.cmpa := rfl
@[simp] theorem closeSession_thr (s : State) : s.closeSession.thr = s.thr := rfl
@[simp] theorem closeSession_pending (s : State) : s.closeSession.pending = s.pending := rfl
@[simp] theorem closeSession_reply (s : State) : s.closeSession.reply = s.reply := rfl
@[simp] theorem closeSession_fill (s : State) : s.closeSession.fill = s.fill := rfl
@[simp] theorem closeSession_sstate (s : State) : s.closeSession.sstate = .finalized := rfl

/-- FILL stays within the buffer (10_state.md R42). -/
theorem absorbByte_fill_le (s : State) (x : Byte) (h : s.fill.toNat ≤ 128) : (s.absorbByte x).fill.toNat ≤ 128 := by
  unfold State.absorbByte
  split
  · simp [State.appendByte]
  · rename_i hne
    have : s.fill.toNat ≠ 128 := fun he => hne (BitVec.eq_of_toNat_eq he)
    simp only [State.appendByte_fill, BitVec.toNat_add]
    simp
    omega

theorem absorbBytes_fill_le (s : State) (l : List Byte) (h : s.fill.toNat ≤ 128) :
    (s.absorbBytes l).fill.toNat ≤ 128 := by
  induction l generalizing s with
  | nil => exact h
  | cons x l ih => exact ih _ (absorbByte_fill_le s x h)

/-- A session is opened by assigning these fields and no others (41_session.md R122). -/
theorem openSession_host (s : State) (o k : BitVec 7) (st : Strategy) :
    (s.openSession o k st).base = s.base ∧ (s.openSession o k st).owner = s.owner ∧
      (s.openSession o k st).pending = s.pending ∧ (s.openSession o k st).reply = s.reply := ⟨rfl, rfl, rfl, rfl⟩

/-- The frame of FINAL's effect (41_session.md R127). -/
theorem closeSession_frame (s : State) :
    s.closeSession = { s with
      t := s.closeSession.t, buf := s.closeSession.buf, h := s.closeSession.h, ccount := s.closeSession.ccount,
      dout := s.closeSession.dout, sstate := .finalized } := rfl

@[simp] theorem closeSession_t (s : State) : s.closeSession.t = inc s.strat s.t (s.fill.setWidth 64) := rfl

@[simp] theorem closeSession_buf (s : State) : s.closeSession.buf = zeroFrom s.fill.toNat s.buf := rfl

@[simp] theorem closeSession_ccount (s : State) : s.closeSession.ccount = s.ccount + 1 := rfl

theorem closeSession_h (s : State) :
    s.closeSession.h = compressF s.h (messageBlock (zeroFrom s.fill.toNat s.buf)) s.closeSession.t true := rfl

theorem closeSession_dout (s : State) : s.closeSession.dout = maskedDigest s.closeSession.h s.outlen.toNat := rfl

end Sys2Proof.Machine
end

