-- ==== Sys2Proof/Laws/Exec.lean ====
section
/-! SUPPORT. What each command answers, one equation for each of its cases, and what all commands have in common. -/

namespace Sys2Proof.Machine

theorem exec_init_open (s : State) (o k : BitVec 7) (st : Strategy) (h : s.sstate = .absorbing) :
    exec (.init o k st) s = .next (s.setErr .invalidState) := by simp [exec, execInit, h]

theorem exec_init (s : State) (o k : BitVec 7) (st : Strategy) (h : s.sstate ≠ .absorbing) :
    exec (.init o k st) s = .next ((s.openSession o k st).setErr .ok) := by simp [exec, execInit, h]

theorem exec_absorb (s : State) (len : BitVec 4) (h : s.sstate = .absorbing) :
    exec (.absorb len) s = .next ((s.absorbBytes (s.dinBytes len.toNat)).setErr .ok) := by
  simp [exec, execAbsorb, h]

theorem exec_absorb_closed (s : State) (len : BitVec 4) (h : s.sstate ≠ .absorbing) :
    exec (.absorb len) s = .next (s.setErr .invalidState) := by simp [exec, execAbsorb, h]

theorem exec_final (s : State) (h : s.sstate = .absorbing) :
    exec .final s = .next (s.closeSession.setErr .ok) := by simp [exec, execFinal, h]

theorem exec_final_closed (s : State) (h : s.sstate ≠ .absorbing) :
    exec .final s = .next (s.setErr .invalidState) := by simp [exec, execFinal, h]

theorem exec_cmp (s : State) : exec .cmp s = .next ((s.setComparison (cmp256 s.cmpa s.thr)).setErr .ok) := rfl

theorem exec_cmpd (s : State) (h : s.sstate = .finalized) :
    exec .cmpd s = .next ((s.setComparison (cmp256 s.digestNumber s.thr)).setErr .ok) := by
  simp [exec, execCmpd, h]

theorem exec_cmpd_open (s : State) (h : s.sstate ≠ .finalized) :
    exec .cmpd s = .next (s.setErr .invalidState) := by simp [exec, execCmpd, h]

theorem exec_endian_value (s : State) :
    exec (.endian .value) s = .next { s with ecvOut := bswap64 s.ecvIn, err := .ok } := rfl

theorem exec_endian_inPlace (s : State) :
    exec (.endian .inPlace) s = .next { s with ecvIn := bswap64 s.ecvIn, err := .ok } := rfl

theorem exec_ctrinc (s : State) (v : Strategy) :
    exec (.ctrinc v) s = .next { s with
      ctrLo := counterLo (inc v (counter s.ctrHi s.ctrLo) s.ctrN)
      ctrHi := counterHi (inc v (counter s.ctrHi s.ctrLo) s.ctrN)
      err := .ok } := rfl

/-- Everything a command can answer: a next state, either with ERR = INVALID_STATE and nothing else changed, or with the
command's own effect (60_exceptions.md R201). -/
theorem exec_cases {i : Instr} {s : State} {o : Host.Outcome State Fault Refusal} (h : exec i s = o) :
    o = .next (s.setErr .invalidState) ∨
    (∃ outlen keylen strat, i = .init outlen keylen strat ∧ s.sstate ≠ .absorbing ∧
      o = .next ((s.openSession outlen keylen strat).setErr .ok)) ∨
    (∃ len, i = .absorb len ∧ s.sstate = .absorbing ∧
      o = .next ((s.absorbBytes (s.dinBytes len.toNat)).setErr .ok)) ∨
    (i = .final ∧ s.sstate = .absorbing ∧ o = .next (s.closeSession.setErr .ok)) ∨
    (i = .cmp ∧ o = .next ((s.setComparison (cmp256 s.cmpa s.thr)).setErr .ok)) ∨
    (i = .cmpd ∧ s.sstate = .finalized ∧ o = .next ((s.setComparison (cmp256 s.digestNumber s.thr)).setErr .ok)) ∨
    (i = .endian .value ∧ o = .next { s with ecvOut := bswap64 s.ecvIn, err := .ok }) ∨
    (i = .endian .inPlace ∧ o = .next { s with ecvIn := bswap64 s.ecvIn, err := .ok }) ∨
    (∃ v, i = .ctrinc v ∧ o = .next { s with
      ctrLo := counterLo (inc v (counter s.ctrHi s.ctrLo) s.ctrN)
      ctrHi := counterHi (inc v (counter s.ctrHi s.ctrLo) s.ctrN)
      err := .ok }) := by
  subst h
  cases i with
  | init o k st =>
    by_cases hs : s.sstate = .absorbing
    · exact .inl (exec_init_open s o k st hs)
    · exact .inr (.inl ⟨o, k, st, rfl, hs, exec_init s o k st hs⟩)
  | absorb len =>
    by_cases hs : s.sstate = .absorbing
    · exact .inr (.inr (.inl ⟨len, rfl, hs, exec_absorb s len hs⟩))
    · exact .inl (exec_absorb_closed s len hs)
  | final =>
    by_cases hs : s.sstate = .absorbing
    · exact .inr (.inr (.inr (.inl ⟨rfl, hs, exec_final s hs⟩)))
    · exact .inl (exec_final_closed s hs)
  | cmp => exact .inr (.inr (.inr (.inr (.inl ⟨rfl, rfl⟩))))
  | cmpd =>
    by_cases hs : s.sstate = .finalized
    · exact .inr (.inr (.inr (.inr (.inr (.inl ⟨rfl, hs, exec_cmpd s hs⟩)))))
    · exact .inl (exec_cmpd_open s hs)
  | endian form =>
    cases form with
    | value => exact .inr (.inr (.inr (.inr (.inr (.inr (.inl ⟨rfl, rfl⟩))))))
    | inPlace => exact .inr (.inr (.inr (.inr (.inr (.inr (.inr (.inl ⟨rfl, rfl⟩)))))))
  | ctrinc v => exact .inr (.inr (.inr (.inr (.inr (.inr (.inr (.inr ⟨v, rfl, rfl⟩)))))))

/-- No command touches the host's side or a constant of the instance. -/
theorem exec_host {i : Instr} {s t : State} (h : exec i s = .next t) :
    t.base = s.base ∧ t.owner = s.owner ∧ t.pending = s.pending ∧ t.reply = s.reply := by
  rcases exec_cases h with h | ⟨o, k, st, -, -, h⟩ | ⟨len, -, -, h⟩ | ⟨-, -, h⟩ | ⟨-, h⟩ | ⟨-, -, h⟩ | ⟨-, h⟩ |
    ⟨-, h⟩ | ⟨v, -, h⟩ <;> cases h
  case inr.inr.inl => rw [absorbBytes_frame]; exact ⟨rfl, rfl, rfl, rfl⟩
  all_goals exact ⟨rfl, rfl, rfl, rfl⟩

end Sys2Proof.Machine
end

