-- ==== Sys2Proof/Laws/PerInstr.lean ====
section
/-! SUPPORT. Facts about every command as syntax, proved one constructor at a time. -/

namespace Sys2Proof.Laws.OpcodeByte

/-- The command's word has its opcode in bits 7:0 and zero in bits 63:32 (30_encoding.md R80, R81). -/
def Statement (i : Instr) : Prop :=
  (encode i).extractLsb' 0 8 = i.opcode ∧ (encode i).extractLsb' 32 32 = 0

theorem init (outlen keylen : BitVec 7) (strat : Strategy) : Statement (.init outlen keylen strat) := by
  constructor
  · apply extract_eq_of_bits
    intro j hj
    interval_cases j <;> simp [encode, field, Instr.opcode]
  · apply extract_eq_of_bits
    intro j hj
    interval_cases j <;> simp [encode, field, Instr.opcode]

theorem absorb (len : BitVec 4) : Statement (.absorb len) := by
  constructor
  · apply extract_eq_of_bits
    intro j hj
    interval_cases j <;> simp [encode, field, Instr.opcode]
  · apply extract_eq_of_bits
    intro j hj
    interval_cases j <;> simp [encode, field, Instr.opcode]

theorem final : Statement .final := ⟨by decide, by decide⟩

theorem cmp : Statement .cmp := ⟨by decide, by decide⟩

theorem cmpd : Statement .cmpd := ⟨by decide, by decide⟩

theorem endian (form : EndianForm) : Statement (.endian form) := by
  cases form <;> exact ⟨by decide, by decide⟩

theorem ctrinc (variant : Strategy) : Statement (.ctrinc variant) := by
  cases variant <;> exact ⟨by decide, by decide⟩

end Sys2Proof.Laws.OpcodeByte
end

