-- ==== Sys2Proof/Laws/WellFormed.lean ====
section
/-! SUPPORT. What a well-formed command's fields are, and that only well-formed commands are decoded. -/

namespace Sys2Proof

@[simp] theorem wellFormed_init (o k : BitVec 7) (st : Strategy) :
    (Instr.init o k st).WellFormed ↔ (1 ≤ o.toNat ∧ o.toNat ≤ 64) ∧ k.toNat ≤ 64 := by
  simp [Instr.WellFormed, Instr.wellFormed, Config.maxOutlen, Config.maxKeylen]

@[simp] theorem wellFormed_absorb (len : BitVec 4) : (Instr.absorb len).WellFormed ↔ len.toNat ≤ 8 := by
  simp [Instr.WellFormed, Instr.wellFormed, Config.maxAbsorb]

/-- A word that decodes to an INIT carries lengths in range (30_encoding.md R85). -/
theorem decode_init_range {w : Word} {o k : BitVec 7} {st : Strategy} (h : decode w = .ok (.init o k st)) :
    (1 ≤ o.toNat ∧ o.toNat ≤ 64) ∧ k.toNat ≤ 64 := by
  unfold decode at h
  split at h
  · cases h
  split at h
  · split at h
    · cases h
    split at h
    · cases h
    split at h
    · cases h
    rename_i ho hk
    cases h
    simp only [Config.maxOutlen, Config.maxKeylen] at ho hk
    omega
  all_goals first
    | cases h
    | (split at h <;> first | cases h | (split at h <;> cases h))

end Sys2Proof
end

