-- ==== Sys2Proof/Laws/Step.lean ====
section
/-! SUPPORT. Everything one step can do, said once; what every step keeps; and how a run is cut in two. -/

namespace Sys2Proof.Machine

/-- The command a CMD write performs answers a next state: the command's own, or the ILLEGAL_CMD failure. -/
theorem performCommand_cases (w : Word) (s : State) :
    (∃ i t, decode w = .ok i ∧ exec i s = .next t ∧ performCommand w s = .next t) ∨
    ((∀ i, decode w ≠ .ok i) ∧ performCommand w s = .next (s.setErr .illegalCmd)) := by
  cases hd : decode w with
  | ok i =>
    left
    have he : performCommand w s = exec i s := by rw [performCommand, hd]
    have hx : ∃ t, exec i s = .next t := by
      rcases exec_cases (rfl : exec i s = _) with h | ⟨o, k, st, -, -, h⟩ | ⟨len, -, -, h⟩ | ⟨-, -, h⟩ | ⟨-, h⟩ |
        ⟨-, -, h⟩ | ⟨-, h⟩ | ⟨-, h⟩ | ⟨v, -, h⟩ <;> exact ⟨_, h⟩
    obtain ⟨t, ht⟩ := hx
    exact ⟨i, t, rfl, ht, he.trans ht⟩
  | error r =>
    right
    exact ⟨fun i h => (by cases h), by rw [performCommand, hd, fail_eq]⟩

/-- Everything a step can do when it answers a next state: wait; be reset; answer a read; store a register; perform a
command; reject an illegal word. -/
theorem step_cases {s t : State} (h : step s = .next t) :
    (s.pending = [] ∧ t = s) ∨
    (∃ inFlight rest, s.pending = .reset inFlight :: rest ∧
      t = { State.resetAt s.base s.owner with pending := rest }) ∨
    (∃ off rest, s.pending = .bus s.owner (.read (s.base + off) 8) :: rest ∧ off < Config.windowSize ∧ off % 8 = 0 ∧
      t = { s with pending := rest, reply := .data (s.readOffset off) }) ∨
    (∃ off v rest, s.pending = .bus s.owner (.write (s.base + off) 8 v) :: rest ∧ off < Config.windowSize ∧
      off % 8 = 0 ∧ regAt off = none ∧ t = { s with pending := rest, reply := .written }) ∨
    (∃ r v rest, s.pending = .bus s.owner (.write (s.base + r.offset) 8 v) :: rest ∧ r ≠ .cmd ∧
      t = { s.writeReg r v with pending := rest, reply := .written }) ∨
    (∃ w rest i u, s.pending = commandInput s.base s.owner w :: rest ∧ decode w = .ok i ∧
      exec i { s with pending := rest } = .next u ∧ t = u.answer .written) ∨
    (∃ w rest, s.pending = commandInput s.base s.owner w :: rest ∧ (∀ i, decode w ≠ .ok i) ∧
      t = { s with pending := rest, reply := .written, err := .illegalCmd }) := by
  rcases hp : s.pending with _ | ⟨e, rest⟩
  · left
    simp only [step, hp, Host.Outcome.next.injEq] at h
    exact ⟨rfl, h.symm⟩
  · right
    have hs : s = { s with pending := e :: rest } := by rw [← hp]
    cases e with
    | reset inFlight =>
      left
      rw [hs, step_reset] at h
      cases h
      exact ⟨inFlight, rest, rfl, rfl⟩
    | bus agent a =>
      right
      have hb : busCycle agent a { s with pending := rest } = .next t := by
        have := h
        rw [hs] at this
        exact this
      unfold busCycle at hb
      split at hb
      · cases hb
      split at hb
      · cases hb
      split at hb
      · cases hb
      rename_i ho hw ha
      have ho' : agent = s.owner := by simpa using ho
      subst ho'
      have hw' : s.inWindow a.addr = true := Bool.eq_true_of_not_eq_false hw
      have ha' : s.accepts a = true := Bool.eq_true_of_not_eq_false ha
      have hr : s.base ≤ a.addr ∧ a.addr < s.base + Config.windowSize := by simpa [State.inWindow] using hw'
      have hac : a.width = 8 ∧ (a.addr - s.base) % 8 = 0 := by simpa [State.accepts, Config.busBytes] using ha'
      obtain ⟨off, hoff⟩ : ∃ off, a.addr = s.base + off := ⟨a.addr - s.base, by omega⟩
      have hlt : off < Config.windowSize := by omega
      have h8 : off % 8 = 0 := by rw [hoff, Nat.add_sub_cancel_left] at hac; exact hac.2
      cases a with
      | read addr width =>
        left
        simp only [BusAccess.addr, BusAccess.width] at hoff hac
        obtain rfl := hoff
        obtain ⟨rfl, -⟩ := hac
        rw [hs, step_read s off rest hlt h8] at h
        cases h
        exact ⟨off, rest, rfl, hlt, h8, rfl⟩
      | write addr width v =>
        right
        simp only [BusAccess.addr, BusAccess.width] at hoff hac
        obtain rfl := hoff
        obtain ⟨rfl, -⟩ := hac
        rw [hs, step_write s off v rest hlt h8] at h
        rcases hreg : regAt off with _ | r
        · left
          simp only [writeOffset, hreg, onNext_next, Host.Outcome.next.injEq] at h
          exact ⟨off, v, rest, rfl, hlt, h8, hreg, h.symm⟩
        · right
          obtain rfl := offset_of_regAt hreg
          by_cases hc : r = .cmd
          · right
            subst hc
            rw [writeOffset, regAt_offset] at h
            rcases performCommand_cases v { s with pending := rest } with ⟨i, u, hd, hx, hc⟩ | ⟨hd, hc⟩
            · left
              simp only [hc, onNext_next, Host.Outcome.next.injEq] at h
              exact ⟨v, rest, i, u, rfl, hd, hx, h.symm⟩
            · right
              simp only [hc, onNext_next, Host.Outcome.next.injEq] at h
              exact ⟨v, rest, rfl, hd, h.symm⟩
          · left
            rw [writeOffset_offset _ _ _ hc] at h
            simp only [onNext_next, Host.Outcome.next.injEq] at h
            refine ⟨r, v, rest, rfl, hc, ?_⟩
            rw [← h]
            cases r <;> rfl

/-- A step keeps the place of the window and the number of the host. -/
theorem step_constants {s t : State} (h : step s = .next t) : t.base = s.base ∧ t.owner = s.owner := by
  rcases step_cases h with ⟨-, rfl⟩ | ⟨f, rest, -, rfl⟩ | ⟨off, rest, -, -, -, rfl⟩ | ⟨off, v, rest, -, -, -, -, rfl⟩ |
    ⟨r, v, rest, -, -, rfl⟩ | ⟨w, rest, i, u, -, -, hx, rfl⟩ | ⟨w, rest, -, -, rfl⟩
  case inr.inr.inr.inr.inl => exact ⟨(writeReg_host s r v).1, (writeReg_host s r v).2.1⟩
  case inr.inr.inr.inr.inr.inl => exact ⟨(exec_host hx).1, (exec_host hx).2.1⟩
  all_goals exact ⟨rfl, rfl⟩

/-- A step takes one input from the host's program, if there is one. -/
theorem step_pending {s t : State} (h : step s = .next t) : t.pending = s.pending.tail := by
  rcases step_cases h with ⟨hp, rfl⟩ | ⟨f, rest, hp, rfl⟩ | ⟨off, rest, hp, -, -, rfl⟩ |
    ⟨off, v, rest, hp, -, -, -, rfl⟩ | ⟨r, v, rest, hp, -, rfl⟩ | ⟨w, rest, i, u, hp, -, hx, rfl⟩ |
    ⟨w, rest, hp, -, rfl⟩
  case inr.inr.inr.inr.inr.inl => rw [hp]; exact (exec_host hx).2.2.1
  all_goals simp [hp]

/-- A run of `m + n` steps is a run of `m` steps and then one of `n`. -/
theorem run_add (M : Host.Core) (m n : Nat) (s : M.State) :
    M.run (m + n) s = (match M.run m s with
      | .next t => M.run n t
      | .fault r => .fault r
      | .refused r => .refused r) := by
  induction m generalizing s with
  | zero => rw [Nat.zero_add]; rfl
  | succ m ih =>
    rw [Nat.succ_add]
    simp only [Host.Core.run]
    cases M.step s with
    | next t => exact ih t
    | fault r => rfl
    | refused r => rfl

end Sys2Proof.Machine
end

