-- ==== Sys2Proof/Tests/Slice0.lean ====
section
/-! SUPPORT. The model's own tests. Every expected value is the spec's: a word written out from the encodings of
30_encoding.md R81, or a vector V-x of 95_test_vectors.md. The last part shows, for each statement with hypotheses, values
that meet all of them. -/

open Sys2Proof Sys2Proof.Machine

namespace Sys2Proof.Tests

/-! ### Well-formedness: each check refuses a term -/

theorem test_wf_outlen_zero : ¬(Instr.init 0 0 .sequential).WellFormed := by decide
theorem test_wf_outlen_65 : ¬(Instr.init 65 0 .sequential).WellFormed := by decide
theorem test_wf_keylen_65 : ¬(Instr.init 32 65 .sequential).WellFormed := by decide
theorem test_wf_len_9 : ¬(Instr.absorb 9).WellFormed := by decide

/-! ### Decoding: words written bit by bit from the patterns of R81 -/

/-- `S 0 KKKKKKK 0 OOOOOOO 00000001` with S = 1, K = 33, O = 20. -/
theorem test_decode_init :
    decode 0b10010000100010100_00000001 = .ok (.init 20 33 .parallel) := by decide

/-- `LLLL 00000010` with L = 5. -/
theorem test_decode_absorb : decode 0b0101_00000010 = .ok (.absorb 5) := by decide

/-- The format N words, 00000011, 00000100 and 00000101. -/
theorem test_decode_format_n :
    decode 0b00000011 = .ok .final ∧ decode 0b00000100 = .ok .cmp ∧ decode 0b00000101 = .ok .cmpd := by decide

/-- `P 00000110` and `P 00000111`. -/
theorem test_decode_format_b :
    decode 0b1_00000110 = .ok (.endian .inPlace) ∧ decode 0b0_00000110 = .ok (.endian .value) ∧
      decode 0b1_00000111 = .ok (.ctrinc .parallel) ∧ decode 0b0_00000111 = .ok (.ctrinc .sequential) := by decide

/-- The bytes of `INIT outlen=32, keylen=64, strat=seq`, 0x402001, as the bus carries them. -/
theorem test_decode_bytes : decodeBytes [0x01, 0x20, 0x40, 0, 0, 0, 0, 0] = .ok (.init 32 64 .sequential) := by decide

/-- V-X1 to V-X20: words that are no command. -/
theorem test_illegal_words :
    [(0x0001 : Word), 0x4101, 0x412001, 0xA001, 0x802001, 0x2002001, 0x80002001, 0x0902, 0x1002, 0x80000002, 0x0103,
      0x0104, 0x0105, 0x0206, 0x0207, 0x0000, 0x0008, 0x00FF, 0x100000003, 0x8000000000000002].all
      (fun w => (decode w).toBool = false && legalWord w = false) = true := by decide

/-! ### Small machine states -/

/-- What a step on the one access leaves, or the state before it where it stops. -/
def after (o : Host.Outcome State Fault Refusal) (s : State) : State :=
  match o with
  | .next t => t
  | .fault _ => s
  | .refused _ => s

/-- The outcome is this next state. -/
def leaves (o : Host.Outcome State Fault Refusal) (t : State) : Bool :=
  match o with
  | .next u => u == t
  | .fault _ => false
  | .refused _ => false

/-- The outcome is this fault. -/
def faults (o : Host.Outcome State Fault Refusal) (f : Fault) : Bool :=
  match o with
  | .next _ => false
  | .fault g => g == f
  | .refused _ => false

/-- The outcome is this refusal. -/
def refuses (o : Host.Outcome State Fault Refusal) (r : Refusal) : Bool :=
  match o with
  | .next _ => false
  | .fault _ => false
  | .refused q => q == r

/-- The state after one command. -/
def ran (i : Instr) (s : State) : State := after (exec i s) s

/-- Every command answers a next state. -/
theorem exec_ran (i : Instr) (s : State) : exec i s = .next (ran i s) := by
  obtain ⟨t, h⟩ : ∃ t, exec i s = .next t := by
    rcases exec_cases (i := i) (s := s) rfl with h | ⟨o, k, st, -, -, h⟩ | ⟨len, -, -, h⟩ | ⟨-, -, h⟩ | ⟨-, h⟩ |
      ⟨-, -, h⟩ | ⟨-, h⟩ | ⟨-, h⟩ | ⟨v, -, h⟩ <;> exact ⟨_, h⟩
  simp only [ran, h, after]

/-- An open unkeyed session with a 32-byte output, no byte absorbed. -/
def opened : State := ran (.init 32 0 .sequential) State.reset

/-- A state whose DOUT is that of V-S3 (register views of V-L5). -/
def hashed : State :=
  { State.reset with
    sstate := .finalized
    outlen := 32
    dout := #v[0x057E1FFC60512FCB, 0xDA480B349DF45EA5, 0x3339539D09785A2E, 0xD60325D49D57CD51, 0, 0, 0, 0]
    thr := #v[0xCB2F5160FC1F7E05, 0xA55EF49D340B48DA, 0x2E5A78099D533933, 0x51CD579DD42503D7] }

/-- A read of the whole word at an offset. -/
def readsAt (s : State) (off : Nat) : Host.Outcome State Fault Refusal :=
  step { s with pending := [.bus s.owner (.read (s.base + off) 8)] }

/-! ### One instruction, one step: the spec's vectors -/

/-- V-R2: STATUS after the first INIT, 0x0000002003000001. -/
theorem test_init_status : opened.statusWord = 0x0000002003000001 := by decide

/-- V-R3: H0 of a fresh 32-byte session is 0x6A09E667F2BDC928. -/
theorem test_init_chain : opened.readReg (.h 0) = 0x6A09E667F2BDC928 := by decide

/-- P1: STATUS and BUF0 after `WR DIN, 0x636261; ABSORB len=3`. -/
theorem test_absorb_three :
    (ran (.absorb 3) { opened with din := 0x636261 }).statusWord = 0x0000002003030001 ∧
      (ran (.absorb 3) { opened with din := 0x636261 }).readReg (.buf 0) = 0x636261 := by decide +kernel

/-- V-S2 and P1: the digest words and STATUS of "abc". -/
theorem test_final_abc :
    (ran .final (ran (.absorb 3) { opened with din := 0x636261 })).dout.toList =
        [0x723942633C81DDBD, 0x9B5798EE3FEF7131, 0x423ECBB13B4E9694, 0x1923D568C0C86272, 0, 0, 0, 0] ∧
      (ran .final (ran (.absorb 3) { opened with din := 0x636261 })).statusWord = 0x0000002003030002 := by
  decide +kernel

/-- V-F3: F for "abc" with a 64-byte output. -/
theorem test_compress_abc64 :
    (compressF (initChain 64 0) #v[0x636261, 0, 0, 0, 0, 0, 0, 0, 0, 0, 0, 0, 0, 0, 0, 0] 3 true).toList =
      [0x0D4D1C983FA580BA, 0xE9F6129FB697276A, 0xB7C45A68142F214C, 0xD1A2FFDB6FBB124B, 0x2D79AB2A39C5877D,
        0x95CC3345DED552C2, 0x5A92F1DBA88AD318, 0x239900D4ED8623B9] := by decide +kernel

/-- V-F1, row "all ones": G with every addition wrapping. -/
theorem test_mixG_wraps :
    let ones : Word := 0xFFFFFFFFFFFFFFFF
    let v := mixG (Vector.replicate 16 ones) 0 4 8 12 ones ones
    [v[0], v[4], v[8], v[12]] =
      [0x000000FFFFFFFDFC, 0xFBF801FBFE0403FD, 0xFDFC000200FDFFFE, 0xFDFC000000FDFFFF] := by decide +kernel

/-- P4: `CMPA3 = 5`, `THR3 = 6` compares LT. -/
theorem test_cmp_less :
    (ran .cmp { State.reset with cmpa := #v[0, 0, 0, 5], thr := #v[0, 0, 0, 6] }).statusWord = 0x0000000005000000 := by
  decide

/-- P4: 0 against 0 compares EQ. -/
theorem test_cmp_equal : (ran .cmp State.reset).statusWord = 0 := by decide

/-- V-L1: the digest of V-S3 against Digest + 1 is below. -/
theorem test_cmpd_below : (ran .cmpd hashed).statusWord = 0x0000002005000002 := by decide +kernel

/-- V-L1: the digest of V-S3 against Digest - 1 is at or above. -/
theorem test_cmpd_above : (ran .cmpd { hashed with thr := hashed.thr.set 3 0x51CD579DD42503D5 }).cmp = .gt := by
  decide +kernel

/-- P4: ECV_OUT of 0x0706050403020100 is 0x0001020304050607. -/
theorem test_endian_value :
    (ran (.endian .value) { State.reset with ecvIn := 0x0706050403020100 }).ecvOut = 0x0001020304050607 := by decide

/-- P4: the in-place form leaves the same value in ECV_IN. -/
theorem test_endian_in_place :
    (ran (.endian .inPlace) { State.reset with ecvIn := 0x0706050403020100 }).ecvIn = 0x0001020304050607 := by decide

/-- P4: 0xFFFFFFFFFFFFFF80 + 0x80 carries into CTR_HI, by the branch. -/
theorem test_ctrinc_sequential :
    let t := ran (.ctrinc .sequential) { State.reset with ctrLo := 0xFFFFFFFFFFFFFF80, ctrN := 0x80 }
    t.ctrLo = 0 ∧ t.ctrHi = 1 := by decide

/-- The same by the carry chain. -/
theorem test_ctrinc_parallel :
    let t := ran (.ctrinc .parallel) { State.reset with ctrLo := 0xFFFFFFFFFFFFFF80, ctrN := 0x80 }
    t.ctrLo = 0 ∧ t.ctrHi = 1 := by decide

/-- V-X21: ABSORB after reset fails; STATUS is 0x0000000003000200. -/
theorem test_absorb_without_session : (ran (.absorb 1) State.reset).statusWord = 0x0000000003000200 := by decide

/-- V-B1 to V-B4, V-B6: what a few accesses answer. -/
theorem test_bus_answers :
    faults (readsAt State.reset 0x004) (.busError 0x004) ∧
      faults (step { State.reset with pending := [.bus 0 (.write 0x008 4 0x2001)] }) (.busError 0x008) ∧
      faults (step { State.reset with pending := [.bus 0 (.read 0x010 1)] }) (.busError 0x010) ∧
      leaves (readsAt State.reset 0x018) { State.reset with reply := .data 0 } ∧
      leaves (readsAt State.reset 0x008) { State.reset with reply := .data 0 } ∧
      leaves (readsAt State.reset 0x010) { State.reset with reply := .data 0x0000000003000000 } := by decide +kernel

/-- A word placed with `withFetchWord` is the next command (P4: `CMP` after reset gives STATUS 0). -/
theorem test_fetch_word : (after (step (State.reset.withFetchWord 64 0x4)) State.reset).statusWord = 0 := by decide

/-! ### Values that meet the hypotheses of the statements -/

/-- CommandWordRoundTrip: the ends of every operand's range. -/
theorem test_meets_well_formed :
    (Instr.init 1 0 .sequential).WellFormed ∧ (Instr.init 64 64 .parallel).WellFormed ∧ (Instr.absorb 0).WellFormed ∧
      (Instr.absorb 8).WellFormed ∧ Instr.final.WellFormed ∧ Instr.cmp.WellFormed ∧ Instr.cmpd.WellFormed ∧
      (Instr.endian .inPlace).WellFormed ∧ (Instr.ctrinc .parallel).WellFormed := by decide

/-- DecodedWordIsItsEncoding, StepRunsDecodedCommand: a word that decodes, and a state with no access pending. -/
theorem test_meets_decoded : decode 0x1404001 = .ok (.init 64 64 .parallel) ∧ State.reset.pending = [] := by decide

/-- IllegalWordFails: a word in no row, and one out of a row's ranges. -/
theorem test_meets_illegal : legalWord 0x08 = false ∧ legalWord 0x4101 = false := by decide

/-- WindowReads and WindowWrites: the ends of the unaligned and of the reserved ranges, and what a read there answers. -/
theorem test_meets_window_ranges :
    [1, 0xFFF].all (fun off => faults (readsAt State.reset off) (.busError off)) = true ∧
      [0x018, 0x050, 0x078, 0x158, 0x178, 0x240, 0xFF8].all
        (fun off => leaves (readsAt State.reset off) { State.reset with reply := .data 0 }) = true := by
  decide +kernel

/-- The same for writes: the ends of the ranges that ignore a write, and the registers beside them that do not. -/
theorem test_meets_write_ranges :
    let writesAt (off : Nat) := step { State.reset with pending := [.bus 0 (.write off 8 0x55)] }
    [0x000, 0x010, 0x018, 0x030, 0x050, 0x078, 0x0C0, 0x1F8, 0x240, 0xFF8].all
        (fun off => leaves (writesAt off) { State.reset with reply := .written }) = true ∧
      [0x020, 0x028, 0x038, 0x048, 0x080, 0x0B8, 0x200, 0x218, 0x220, 0x238].all
        (fun off => !leaves (writesAt off) { State.reset with reply := .written }) = true := by
  decide +kernel

/-- UnacceptedAccessIsBusError: the three ways an access is not accepted, at the ends of the window. -/
theorem test_meets_unaccepted :
    [BusAccess.read 0x000 4, .write 0xFFF 8 0, .write 0x008 16 0x2001].all (fun a =>
      State.reset.base ≤ a.addr && a.addr < State.reset.base + 0x1000 &&
        (a.width != 8 || (a.addr - State.reset.base) % 8 != 0)) = true := by decide

/-- ForeignAccessRefused: a second agent; the first address past the window and the last one below it. -/
theorem test_meets_foreign :
    refuses (step { State.reset with pending := [.bus 1 (.read 0 8)] }) (.twoAgents 1) ∧
      refuses (step { State.reset with pending := [.bus 0 (.read 0x1000 8)] }) (.outsideWindow 0x1000) ∧
      refuses (step { State.resetAt 0x2000 0 with pending := [.bus 0 (.read 0x1FFF 8)] }) (.outsideWindow 0x1FFF) := by
  decide

/-- WriteThenRead, LittleEndianLanes: an RW register, and the last lane. -/
theorem test_meets_rw : Reg.isRW (.thr 3) = true ∧ Reg.isRW .din = true ∧ 7 < 8 := by decide

/-- InitOpensSession, KeyedInitAbsorbsKeyBlock, FinalCounterAndCount, TrailingZeroByteIsHashed, HashProgramComputesHash:
INIT runs from reset and from a closed session, at the ends of its ranges. -/
theorem test_meets_init :
    State.reset.sstate ≠ .absorbing ∧ hashed.sstate ≠ .absorbing ∧ (Instr.init 64 0 .parallel).WellFormed ∧
      (Instr.init 1 64 .sequential).WellFormed ∧ 0 < (64 : BitVec 7).toNat ∧
      exec (.init 1 64 .sequential) State.reset = .next (ran (.init 1 64 .sequential) State.reset) ∧
      exec (.init 64 0 .parallel) hashed = .next (ran (.init 64 0 .parallel) hashed) ∧
      (List.replicate 128 (0xFF : Byte)).length = 128 ∧ (List.replicate 64 (0x01 : Byte)).length ≤ 64 := by
  refine ⟨by decide, by decide, by decide, by decide, by decide, exec_ran _ _, exec_ran _ _, by decide +kernel,
    by decide +kernel⟩

/-- InitOpensSession, AbsorbAppendsDinBytes, FinalClosesSession, CmpdComparesDigest, StrategyIsInvisible: each state the
four commands are refused in, and a command and a register for the last. -/
theorem test_meets_states :
    opened.sstate = .absorbing ∧ State.reset.sstate ≠ .absorbing ∧ hashed.sstate ≠ .absorbing ∧
      State.reset.sstate ≠ .finalized ∧ opened.sstate ≠ .finalized ∧
      (∀ outlen keylen st, Instr.final ≠ .init outlen keylen st) ∧ Reg.t0 ≠ .status := by
  refine ⟨by decide, by decide, by decide, by decide, by decide, by simp, by decide⟩

/-- HashProgramComputesHash: its first line writes KEY0, its ninth is a command, and so is its last. -/
theorem test_meets_hash_lines :
    let p := hashProgram [0x61] 32 [0x01] .sequential
    p.length = 12 ∧ p[0]? = some (.wr (.key 0) 0x01) ∧ p[8]? = some (.command (.init 32 1 .sequential)) ∧
      p[11]? = some (.command .final) := by decide

/-- FlagWriters, StrategyIsInvisible: a comparison that succeeds, one that fails and a command that is none; a bit of
STATUS beside STRAT. -/
theorem test_meets_flags :
    (Instr.cmpd = .cmp ∨ Instr.cmpd = .cmpd ∧ hashed.sstate = .finalized) ∧
      (Instr.cmpd ≠ .cmp ∧ (Instr.cmpd = .cmpd → opened.sstate ≠ .finalized)) ∧
      (Instr.final ≠ .cmp ∧ (Instr.final = .cmpd → opened.sstate ≠ .finalized)) ∧ 3 ≠ 2 := by decide

/-- The ILLEGAL_CMD clauses of the seven commands: the first and the last reserved bit, and each field just out of range
(V-X1 to V-X15). -/
theorem test_meets_reserved :
    [(0x2002001 : Word), 0x8000000000002001].all (fun w => w.extractLsb' 0 8 = 0x01 && w.extractLsb' 25 39 ≠ 0) ∧
      (0x802001 : Word).extractLsb' 23 1 ≠ 0 ∧ (0xA001 : Word).extractLsb' 15 1 ≠ 0 ∧
      ((0x0001 : Word).extractLsb' 8 7).toNat = 0 ∧ ((0x4101 : Word).extractLsb' 8 7).toNat = 65 ∧
      ((0x412001 : Word).extractLsb' 16 7).toNat = 65 ∧
      [(0x1002 : Word), 0x8000000000000002].all (fun w => w.extractLsb' 0 8 = 0x02 && w.extractLsb' 12 52 ≠ 0) ∧
      ((0x0902 : Word).extractLsb' 8 4).toNat = 9 ∧
      [(0x0103 : Word), 0x8000000000000003].all (fun w => w.extractLsb' 0 8 = 0x03 && w.extractLsb' 8 56 ≠ 0) ∧
      (0x0104 : Word).extractLsb' 0 8 = 0x04 ∧ (0x0104 : Word).extractLsb' 8 56 ≠ 0 ∧
      (0x0105 : Word).extractLsb' 0 8 = 0x05 ∧ (0x0105 : Word).extractLsb' 8 56 ≠ 0 ∧
      (0x0206 : Word).extractLsb' 0 8 = 0x06 ∧ (0x0206 : Word).extractLsb' 9 55 ≠ 0 ∧
      (0x0207 : Word).extractLsb' 0 8 = 0x07 ∧ (0x0207 : Word).extractLsb' 9 55 ≠ 0 := by decide

/-- AbsorbByteDefersFullBlock: the last byte that fits, and a full buffer. -/
theorem test_meets_fill :
    ({ opened with fill := 127 } : State).fill.toNat < 128 ∧ ({ opened with fill := 128 } : State).fill = 128 := by decide

/-- AbsorbAppendsDinBytes, FinalClosesSession, CmpdComparesDigest: an open session with LEN at the end of its range, and
a closed one. -/
theorem test_meets_open_session :
    (Instr.absorb 8).WellFormed ∧ opened.sstate = .absorbing ∧ hashed.sstate = .finalized := by decide

/-- SplitInvariance: "ab" in one ABSORB, and in three, one of them empty. -/
theorem test_meets_split :
    let p : List (Word × BitVec 4) := [(0x6261, 2)]
    let q : List (Word × BitVec 4) := [(0x61, 1), (0xFF, 0), (0x62, 1)]
    opened.sstate = .absorbing ∧ p ≠ [] ∧ q ≠ [] ∧ (∀ c ∈ p, c.2.toNat ≤ 8) ∧ (∀ c ∈ q, c.2.toNat ≤ 8) ∧
      chunkBytes p = chunkBytes q := by
  refine ⟨by decide, by simp, by simp, by simp, by simp, by decide +kernel⟩

/-- MixGUpdatesFourWords, RoundMixesColumnsThenDiagonals: different words, of one column and of two. -/
theorem test_meets_columns :
    ([0, 4, 8, 12] : List (Fin 16)).Nodup ∧ ([0, 4, 8, 12, 1, 5, 9, 13] : List (Fin 16)).Nodup := by decide

/-- ComparatorMatchesNumbers: a rising chain of three that differ in the least significant limb. -/
theorem test_meets_chain :
    cmp256 #v[0, 0, 0, 1] #v[0, 0, 0, 2] = .lt ∧ cmp256 #v[0, 0, 0, 2] #v[0, 0, 1, 0] = .lt := by decide

/-- InvariantKept, CountInvariantKept, SessionParametersLatched: an open session holds both invariants, and its host's
CMP is a step. -/
theorem test_meets_invariants :
    let s := { opened with pending := [commandInput 0 0 0x4] }
    Inv s ∧ CountInv s ∧ (∃ t, step s = .next t) := by
  refine ⟨?_, ⟨by decide, by decide⟩, _, rfl⟩
  exact {
    base_aligned := by decide
    fill_le := by decide
    outlen_le := by decide
    keylen_le := by decide
    below_iff_lt := by decide
    outlen_zero_iff := by decide
    before_init := fun h => absurd h (by decide)
    dout_before_final := fun _ => rfl
    dout_after_final := fun h => absurd h (by decide) }

/-- InvariantAtReset: a base the platform may give. -/
theorem test_meets_base : 0x40000000 % 0x1000 = 0 := by decide

/-- SessionStateMoves, FlagWriters, FailureChangesOnlyErr, CommandFrames: every command answers a next state, and some
register is outside those it writes. -/
theorem test_meets_commands :
    exec .cmp State.reset = .next (ran .cmp State.reset) ∧ exec .final opened = .next (ran .final opened) ∧
      exec .cmpd hashed = .next (ran .cmpd hashed) ∧
      exec (.absorb 8) opened = .next (ran (.absorb 8) opened) ∧
      (∀ r ∈ writtenRegs .final, ¬(opened.base + r.offset ≤ 0x238 ∧ 0x238 < opened.base + r.offset + 8)) := by
  exact ⟨exec_ran _ _, exec_ran _ _, exec_ran _ _, exec_ran _ _, by decide⟩

/-- LegalInputsNeverStop: accesses at both ends of the window, a command and a reset. -/
theorem test_meets_legal_inputs :
    State.LegalInputs { State.reset with pending :=
      [.bus 0 (.read 0x000 8), .bus 0 (.write 0xFF8 8 1), commandInput 0 0 0x2001, .reset none] } := by
  intro e he
  revert e
  decide

/-- Two instances, the second about to be reset. -/
def twoInstances : System :=
  { slots := [
      { core := { State.resetAt 0x1000 0 with pending := [commandInput 0x1000 0 0x2001] }, stopped := none },
      { core := { State.resetAt 0x3000 1 with pending := [.reset none] }, stopped := none }] }

/-- InstancesDoNotInterfere, WindowsStayDisjoint: two well-placed instances, one moving by itself and one by a reset,
and the first address of a window. -/
theorem test_meets_instances :
    (twoInstances.slots[0]?.map Slot.resetIsNext) = some false ∧ (twoInstances.slots[1]?.map Slot.resetIsNext) = some true ∧
      twoInstances.wellPlaced = true ∧ (twoInstances.slots[0]?.map fun a => a.core.inWindow 0x1000) = some true := by
  decide

/-- WindowsStayDisjoint: places for two instances. -/
theorem test_meets_places :
    let places : List (Nat × Nat) := [(0x1000, 0), (0x3000, 1)]
    places ≠ [] ∧ places.all (fun p => p.1 % 0x1000 = 0) = true ∧ (places.map Prod.fst).Nodup := by decide

/-- `NINST` is at least 1: no instance at all is no well-placed system. -/
theorem test_no_instance : (System.reset []).wellPlaced = false := by decide

/-- InstanceMovesCommute: two instances, neither about to be reset. -/
theorem test_meets_two_moves :
    ((System.reset [(0x1000, 0), (0x3000, 1)]).slots.all fun sl => sl.resetIsNext = false) = true := by decide

end Sys2Proof.Tests
end

section
/-! PROOFS. Where the instances of a system stand: well-placement is a property of the list of bases alone, and no move
changes that list. -/

namespace Sys2Proof.Machine

/-- The bases of the instances, in order. -/
def System.bases (sys : System) : List Nat := sys.slots.map fun sl => sl.core.base

@[simp] theorem System.length_bases (sys : System) : sys.bases.length = sys.slots.length := List.length_map _

@[simp] theorem System.getElem?_bases (sys : System) (k : Nat) :
    sys.bases[k]? = sys.slots[k]?.map fun sl => sl.core.base := List.getElem?_map

@[simp] theorem System.bases_reset (places : List (Nat × Nat)) :
    (System.reset places).bases = places.map Prod.fst := by
  rw [System.bases, System.reset, List.map_map]
  rfl

theorem System.wellPlaced_iff_bases (sys : System) :
    sys.wellPlaced = true ↔
      1 ≤ sys.bases.length ∧ (∀ b ∈ sys.bases, b % Config.windowSize = 0) ∧ sys.bases.Nodup := by
  simp [System.wellPlaced, System.bases, and_assoc]

theorem State.inWindow_iff (s : State) (addr : Nat) :
    s.inWindow addr = true ↔ s.base ≤ addr ∧ addr < s.base + Config.windowSize := by
  simp [State.inWindow]

/-- Two windows at different multiples of the window's size share no address (20_memory.md R60). -/
theorem State.inWindow_disjoint {s u : State} {addr : Nat} (hs : s.base % Config.windowSize = 0)
    (hu : u.base % Config.windowSize = 0) (hne : s.base ≠ u.base) (h : s.inWindow addr = true) :
    u.inWindow addr = false := by
  rw [State.inWindow_iff] at h
  rw [← Bool.not_eq_true, State.inWindow_iff]
  rintro ⟨hlo, hhi⟩
  simp only [Config.windowSize] at *
  omega

/-! ### A move changes no base -/

@[simp] theorem Slot.advance_base (sl : Slot) : sl.advance.core.base = sl.core.base := by
  unfold Slot.advance
  split
  · rfl
  · split
    next s hs => exact (step_constants hs).1
    · rfl
    · rfl

@[simp] theorem Slot.applyReset_base (sl : Slot) : sl.applyReset.core.base = sl.core.base := rfl

@[simp] theorem System.bases_map_applyReset (l : List Slot) :
    (System.mk (l.map Slot.applyReset)).bases = (System.mk l).bases := by
  rw [System.bases, List.map_map]
  rfl

/-- Putting a slot with the same base in the place of another leaves the bases as they are. -/
theorem System.bases_set {l : List Slot} {k : Nat} {sl : Slot}
    (h : (System.mk l).bases[k]? = some sl.core.base) : (System.mk (l.set k sl)).bases = (System.mk l).bases := by
  rw [System.bases, List.map_set]
  obtain ⟨hlt, heq⟩ := List.getElem?_eq_some_iff.mp h
  rw [← heq]
  exact List.set_getElem_self hlt

/-- Every move keeps the bases, whether it resets the whole system or is one instance's alone
(93_implementation_defined.md U5). -/
@[simp] theorem System.bases_stepAt (sys : System) (k : Nat) : (sys.stepAt k).bases = sys.bases := by
  unfold System.stepAt
  split
  · rfl
  next sl hk =>
    have hbase : sys.bases[k]? = some sl.advance.core.base := by simp [hk]
    split
    · rw [System.bases_set, System.bases_map_applyReset]
      rwa [System.bases_map_applyReset]
    · exact System.bases_set hbase

theorem System.wellPlaced_stepAt {sys : System} (k : Nat) (h : sys.wellPlaced = true) :
    (sys.stepAt k).wellPlaced = true := by
  rw [System.wellPlaced_iff_bases] at h ⊢
  rwa [System.bases_stepAt]

theorem System.length_stepAt (sys : System) (k : Nat) : (sys.stepAt k).slots.length = sys.slots.length := by
  rw [← System.length_bases, System.bases_stepAt, System.length_bases]

/-! ### The windows of a well-placed system -/

theorem System.base_aligned {sys : System} {k : Nat} {sl : Slot} (h : sys.wellPlaced = true)
    (hk : sys.slots[k]? = some sl) : sl.core.base % Config.windowSize = 0 := by
  obtain ⟨-, haligned, -⟩ := sys.wellPlaced_iff_bases.mp h
  exact haligned _ (List.mem_of_getElem? (i := k) (by simp [hk]))

theorem System.base_ne {sys : System} {j k : Nat} {a b : Slot} (h : sys.wellPlaced = true) (hjk : j ≠ k)
    (hj : sys.slots[j]? = some a) (hk : sys.slots[k]? = some b) : a.core.base ≠ b.core.base := by
  obtain ⟨-, -, hnodup⟩ := sys.wellPlaced_iff_bases.mp h
  intro heq
  have hlt : j < sys.bases.length := by
    rw [System.length_bases]
    exact (List.getElem?_eq_some_iff.mp hj).1
  exact hjk ((List.getElem?_inj hlt hnodup).mp (by simp [hj, hk, heq]))

theorem System.wellPlaced_reset {places : List (Nat × Nat)} (hne : places ≠ [])
    (haligned : ∀ p ∈ places, p.1 % Config.windowSize = 0) (hnodup : (places.map Prod.fst).Nodup) :
    (System.reset places).wellPlaced = true := by
  rw [System.wellPlaced_iff_bases, System.bases_reset]
  refine ⟨?_, List.forall_mem_map.mpr haligned, hnodup⟩
  rw [List.length_map]
  exact List.length_pos_iff.mpr hne

end Sys2Proof.Machine

open Sys2Proof.Machine

/-- Settles O52: bases that are aligned and all different give disjoint windows, and no move changes a base. -/
theorem windowsStayDisjoint : Obligations.WindowsStayDisjoint := by
  refine ⟨?disjoint, ?kept, ?atReset⟩
  case disjoint =>
    intro sys j k a b addr hwp hjk hj hk
    exact State.inWindow_disjoint (System.base_aligned hwp hj) (System.base_aligned hwp hk)
      (System.base_ne hwp hjk hj hk)
  case kept =>
    intro sys k hwp
    have hsome : 1 ≤ sys.slots.length := sys.length_bases ▸ (sys.wellPlaced_iff_bases.mp hwp).1
    exact ⟨hsome, System.wellPlaced_stepAt k hwp, System.length_stepAt sys k⟩
  case atReset =>
    intro places hne haligned hnodup
    exact System.wellPlaced_reset hne haligned hnodup
end

section
/-! PROOFS. The invariants of 10_state.md R42: they hold at reset, each operation of a command keeps them, and so does every
step. -/

namespace Sys2Proof.Machine

/-- `s` with every field `Inv` does not speak of at its reset value. -/
def State.invPart (s : State) : State :=
  { State.resetAt s.base 0 with
    h := s.h, t := s.t, buf := s.buf, fill := s.fill, sstate := s.sstate, strat := s.strat, outlen := s.outlen,
    keylen := s.keylen, ccount := s.ccount, cmp := s.cmp, below := s.below, dout := s.dout }

theorem inv_invPart_iff (s : State) : Inv s.invPart ↔ Inv s := by
  constructor
  · rintro ⟨hb, hf, ho, hk, hlt, hz, hi, hd, hd'⟩
    exact ⟨hb, hf, ho, hk, hlt, hz, hi, hd, hd'⟩
  · rintro ⟨hb, hf, ho, hk, hlt, hz, hi, hd, hd'⟩
    exact ⟨hb, hf, ho, hk, hlt, hz, hi, hd, hd'⟩

/-- A state that differs only in what the invariants do not speak of keeps them. -/
theorem Inv.of_invPart_eq {s t : State} (hs : Inv s) (h : t.invPart = s.invPart) : Inv t := by
  rwa [← inv_invPart_iff, h, inv_invPart_iff]

theorem writeReg_invPart (s : State) (r : Reg) (v : Word) : (s.writeReg r v).invPart = s.invPart := by
  cases r <;> rfl

theorem Inv.setErr {s : State} (hs : Inv s) (code : ErrCode) : Inv (s.setErr code) := hs.of_invPart_eq rfl

theorem inv_resetAt {base : Nat} (owner : Nat) (h : base % Config.windowSize = 0) :
    Inv (State.resetAt base owner) where
  base_aligned := h
  fill_le := Nat.zero_le _
  outlen_le := Nat.zero_le _
  keylen_le := Nat.zero_le _
  below_iff_lt := iff_of_false nofun nofun
  outlen_zero_iff := iff_of_true rfl rfl
  before_init _ := ⟨rfl, rfl, rfl, rfl, rfl, rfl, rfl⟩
  dout_before_final _ := rfl
  dout_after_final := nofun

/-- INIT opens a session whose OUTLEN is not 0, with an empty or a full buffer and DOUT zero (41_session.md R122). -/
theorem Inv.openSession {s : State} (hs : Inv s) {outlen keylen : BitVec 7} (strat : Strategy)
    (hout : 1 ≤ outlen.toNat ∧ outlen.toNat ≤ 64) (hkey : keylen.toNat ≤ 64) :
    Inv (s.openSession outlen keylen strat) where
  base_aligned := hs.base_aligned
  fill_le := by
    simp only [State.openSession]
    split <;> decide
  outlen_le := hout.2
  keylen_le := hkey
  below_iff_lt := hs.below_iff_lt
  outlen_zero_iff := by
    have hne : outlen ≠ 0 := by
      rintro rfl
      exact absurd hout.1 (by decide)
    exact iff_of_false hne nofun
  before_init := nofun
  dout_before_final _ := rfl
  dout_after_final := nofun

theorem Inv.absorbBytes {s : State} (hs : Inv s) (hopen : s.sstate = .absorbing) (l : List Byte) :
    Inv (s.absorbBytes l) where
  base_aligned := by simpa using hs.base_aligned
  fill_le := absorbBytes_fill_le s l hs.fill_le
  outlen_le := by simpa using hs.outlen_le
  keylen_le := by simpa using hs.keylen_le
  below_iff_lt := by simpa using hs.below_iff_lt
  outlen_zero_iff := by simpa using hs.outlen_zero_iff
  before_init := by simp [hopen]
  dout_before_final := by simpa using hs.dout_before_final
  dout_after_final := by simp [hopen]

/-- FINAL ends in the masked digest of the new chain (41_session.md R127, R128); OUTLEN is not 0, as a session was open. -/
theorem Inv.closeSession {s : State} (hs : Inv s) (hopen : s.sstate = .absorbing) : Inv s.closeSession where
  base_aligned := hs.base_aligned
  fill_le := hs.fill_le
  outlen_le := hs.outlen_le
  keylen_le := hs.keylen_le
  below_iff_lt := hs.below_iff_lt
  outlen_zero_iff := by
    have hne : s.outlen ≠ 0 := mt hs.outlen_zero_iff.mp (by simp [hopen])
    exact iff_of_false hne nofun
  before_init := nofun
  dout_before_final h := absurd rfl h
  dout_after_final _ := closeSession_dout s

/-- A comparison writes CMP and BELOW together (43_compare.md R151). -/
theorem Inv.setComparison {s : State} (hs : Inv s) (r : CmpResult) : Inv (s.setComparison r) where
  base_aligned := hs.base_aligned
  fill_le := hs.fill_le
  outlen_le := hs.outlen_le
  keylen_le := hs.keylen_le
  below_iff_lt := by simp
  outlen_zero_iff := hs.outlen_zero_iff
  before_init := hs.before_init
  dout_before_final := hs.dout_before_final
  dout_after_final := hs.dout_after_final

/-- A decoded command keeps the invariants; the decoder's ranges bound the lengths an INIT latches. -/
theorem Inv.exec {s t : State} {w : Word} {i : Instr} (hs : Inv s) (hd : decode w = .ok i)
    (h : exec i s = .next t) : Inv t := by
  rcases exec_cases h with h | ⟨outlen, keylen, strat, rfl, -, h⟩ | ⟨len, -, hopen, h⟩ | ⟨-, hopen, h⟩ | ⟨-, h⟩ |
    ⟨-, -, h⟩ | ⟨-, h⟩ | ⟨-, h⟩ | ⟨v, -, h⟩ <;> cases h
  case inl => exact hs.setErr .invalidState
  case inr.inl =>
    obtain ⟨hout, hkey⟩ := decode_init_range hd
    exact (hs.openSession strat hout hkey).setErr .ok
  case inr.inr.inl => exact (hs.absorbBytes hopen _).setErr .ok
  case inr.inr.inr.inl => exact (hs.closeSession hopen).setErr .ok
  case inr.inr.inr.inr.inl => exact (hs.setComparison _).setErr .ok
  case inr.inr.inr.inr.inr.inl => exact (hs.setComparison _).setErr .ok
  all_goals exact hs.of_invPart_eq rfl

theorem Inv.step {s t : State} (hs : Inv s) (h : step s = .next t) : Inv t := by
  rcases step_cases h with ⟨-, rfl⟩ | ⟨-, rest, -, rfl⟩ | ⟨off, rest, -, -, -, rfl⟩ | ⟨off, v, rest, -, -, -, -, rfl⟩ |
    ⟨r, v, rest, -, -, rfl⟩ | ⟨w, rest, i, u, -, hd, hx, rfl⟩ | ⟨w, rest, -, -, rfl⟩
  case inr.inl => exact (inv_resetAt s.owner hs.base_aligned).of_invPart_eq rfl
  case inr.inr.inr.inr.inl => exact hs.of_invPart_eq (writeReg_invPart s r v)
  case inr.inr.inr.inr.inr.inl =>
    have hrest : Inv { s with pending := rest } := hs.of_invPart_eq rfl
    exact (hrest.exec hd hx).of_invPart_eq rfl
  all_goals exact hs.of_invPart_eq rfl

end Sys2Proof.Machine

open Sys2Proof.Machine

/-- Settles O41: each invariant is a fact about the reset values. -/
theorem invariantAtReset : Obligations.InvariantAtReset := by
  intro base owner haligned
  exact inv_resetAt owner haligned

/-- Settles O42: a reset starts the invariants anew, a decoded command keeps them, and any other input changes only what
they do not speak of. -/
theorem invariantKept : Obligations.InvariantKept := by
  intro s t hs h
  exact hs.step h
end

section
/-! PROOFS. How the session controller's state moves, and when the parameters of a session change (10_state.md R37, R38). -/

namespace Sys2Proof.Machine

@[simp] theorem openSession_sstate (s : State) (outlen keylen : BitVec 7) (strat : Strategy) :
    (s.openSession outlen keylen strat).sstate = .absorbing := rfl

theorem exec_endian_sstate {form : EndianForm} {s t : State} (h : exec (.endian form) s = .next t) :
    t.sstate = s.sstate := by
  cases form <;> cases h <;> rfl

/-- The strategy and the two lengths a session was opened with. -/
def State.parameters (s : State) : Strategy × BitVec 7 × BitVec 7 := (s.strat, s.outlen, s.keylen)

theorem writeReg_parameters (s : State) (r : Reg) (v : Word) : (s.writeReg r v).parameters = s.parameters := by
  cases r <;> rfl

/-- Only an INIT outside an open session writes the parameters (41_session.md R121, R122). -/
theorem exec_parameters {i : Instr} {s t : State} (h : exec i s = .next t) :
    t.parameters = s.parameters ∨
      ∃ outlen keylen strat, i = .init outlen keylen strat ∧ s.sstate ≠ .absorbing := by
  rcases exec_cases h with h | ⟨outlen, keylen, strat, hi, hs, -⟩ | ⟨len, -, -, h⟩ | ⟨-, -, h⟩ | ⟨-, h⟩ | ⟨-, -, h⟩ |
    ⟨-, h⟩ | ⟨-, h⟩ | ⟨v, -, h⟩
  case inr.inl => exact .inr ⟨outlen, keylen, strat, hi, hs⟩
  case inr.inr.inl =>
    cases h
    left
    simp [State.parameters]
  all_goals
    cases h
    exact .inl rfl

end Sys2Proof.Machine

open Sys2Proof Sys2Proof.Machine

/-- Settles O44: INIT, ABSORB and FINAL by whether a session is open, CMPD by whether one is finalized; CMP, ENDIAN and
CTRINC do not look at the session state. -/
theorem sessionStateMoves : Obligations.SessionStateMoves := by
  intro i s t h
  cases i with
  | init outlen keylen strat =>
    by_cases hs : s.sstate = .absorbing
    · rw [exec_init_open s outlen keylen strat hs] at h
      cases h
      simp [hs]
    · rw [exec_init s outlen keylen strat hs] at h
      cases h
      simp [hs]
  | absorb len =>
    by_cases hs : s.sstate = .absorbing
    · rw [exec_absorb s len hs] at h
      cases h
      simp [hs]
    · rw [exec_absorb_closed s len hs] at h
      cases h
      simp [hs]
  | final =>
    by_cases hs : s.sstate = .absorbing
    · rw [exec_final s hs] at h
      cases h
      simp [hs]
    · rw [exec_final_closed s hs] at h
      cases h
      simp [hs]
  | cmp =>
    cases h
    rfl
  | cmpd =>
    by_cases hs : s.sstate = .finalized
    · rw [exec_cmpd s hs] at h
      cases h
      rfl
    · rw [exec_cmpd_open s hs] at h
      cases h
      rfl
  | endian form => exact exec_endian_sstate h
  | ctrinc variant =>
    cases h
    rfl

/-- Settles O45: of all a step can do, only a reset and a decoded command can write the parameters, and of the commands
only an INIT outside an open session. -/
theorem sessionParametersLatched : Obligations.SessionParametersLatched := by
  intro s t h
  have hkept : t.parameters = s.parameters → t.strat = s.strat ∧ t.outlen = s.outlen ∧ t.keylen = s.keylen := by
    simp [State.parameters]
  rcases step_cases h with ⟨-, rfl⟩ | ⟨inFlight, rest, hp, -⟩ | ⟨off, rest, -, -, -, rfl⟩ |
    ⟨off, v, rest, -, -, -, -, rfl⟩ | ⟨r, v, rest, -, -, rfl⟩ | ⟨w, rest, i, u, hp, hd, hx, rfl⟩ | ⟨w, rest, -, -, rfl⟩
  case inr.inl => exact .inr (.inl ⟨inFlight, rest, hp⟩)
  case inr.inr.inr.inr.inl => exact .inl (hkept (writeReg_parameters s r v))
  case inr.inr.inr.inr.inr.inl =>
    rcases exec_parameters hx with hu | ⟨outlen, keylen, strat, rfl, hs⟩
    · exact .inl (hkept hu)
    · exact .inr (.inr ⟨w, rest, outlen, keylen, strat, hp, hd, hs⟩)
  all_goals exact .inl ⟨rfl, rfl, rfl⟩
end

section
/-! PROOFS. The registers ID, STATUS and CMD at the bus: the constant of ID, the fields of STATUS, and the command a write
to CMD performs (10_state.md R23 to R25). -/

namespace Sys2Proof

/-- A placed field is read back from its own bits. -/
theorem extract_field_same {n : Nat} (v : BitVec n) {lo : Nat} (h : lo + n ≤ 64) :
    (field v lo).extractLsb' lo n = v := by
  apply extract_eq_of_bits
  intro j hj
  have hlt : lo + j < 64 := by omega
  rw [getLsbD_field]
  simp [hlt]

/-- A placed field has no bit in a slice that lies below or above it. -/
theorem extract_field_disjoint {n : Nat} (v : BitVec n) {lo start len : Nat}
    (h : start + len ≤ lo ∨ lo + n ≤ start) : (field v lo).extractLsb' start len = 0 := by
  apply extract_eq_of_bits
  intro j hj
  rw [getLsbD_field]
  rcases h with hbelow | habove
  · have hlo : ¬ lo ≤ start + j := by omega
    simp [hlo]
  · have hn : n ≤ start + j - lo := by omega
    simp [BitVec.getLsbD_of_ge v _ hn]

end Sys2Proof

namespace Sys2Proof.Machine

theorem performCommand_ok {w : Word} {i : Instr} (h : decode w = .ok i) (s : State) :
    performCommand w s = exec i s := by
  rw [performCommand, h]

theorem withFetchWord_eq (s : State) (w : Word) :
    s.withFetchWord 64 w.toNat = { s with pending := commandInput s.base s.owner w :: s.pending } := by
  rw [State.withFetchWord, Nat.mod_eq_of_lt w.isLt, BitVec.ofNat_toNat, BitVec.setWidth_eq]

theorem decodeTableWord_eq {w : Word} {i : Instr} (h : decode w = .ok i) :
    decodeTableWord 64 w.toNat = some i := by
  rw [decodeTableWord, Nat.mod_eq_of_lt w.isLt, if_pos w.isLt, BitVec.ofNat_toNat, BitVec.setWidth_eq, h]

/-- A slice of STATUS is the union of the slices of its placed fields. -/
theorem statusWord_extract (s : State) (start len : Nat) :
    s.statusWord.extractLsb' start len =
      (field s.sstate.code 0).extractLsb' start len ||| (field s.strat.code 2).extractLsb' start len |||
        (field s.err.code 8).extractLsb' start len ||| (field s.fill 16).extractLsb' start len |||
        (field s.cmp.code 24).extractLsb' start len ||| (field (BitVec.ofBool s.below) 26).extractLsb' start len |||
        (field s.outlen 32).extractLsb' start len ||| (field s.keylen 40).extractLsb' start len := by
  simp only [State.statusWord, BitVec.extractLsb'_or]

/-- Each field of STATUS is alone in its bits (10_state.md R24). -/
theorem statusWord_fields (s : State) :
    s.statusWord.extractLsb' 0 2 = s.sstate.code ∧ s.statusWord.extractLsb' 2 1 = s.strat.code ∧
      s.statusWord.extractLsb' 8 8 = s.err.code ∧ s.statusWord.extractLsb' 16 8 = s.fill ∧
      s.statusWord.extractLsb' 24 2 = s.cmp.code ∧ s.statusWord.extractLsb' 26 1 = BitVec.ofBool s.below ∧
      s.statusWord.extractLsb' 32 7 = s.outlen ∧ s.statusWord.extractLsb' 40 7 = s.keylen := by
  simp [statusWord_extract, extract_field_same, extract_field_disjoint]

/-- No field of STATUS reaches into the reserved bits (10_state.md R24). -/
theorem statusWord_reserved (s : State) :
    s.statusWord.extractLsb' 3 5 = 0 ∧ s.statusWord.extractLsb' 27 5 = 0 ∧ s.statusWord.extractLsb' 39 1 = 0 ∧
      s.statusWord.extractLsb' 47 17 = 0 := by
  simp [statusWord_extract, extract_field_disjoint]

end Sys2Proof.Machine

open Sys2Proof Sys2Proof.Machine

/-- Settles O6: `step_command` for a word that decodes. -/
theorem stepRunsDecodedCommand : Obligations.StepRunsDecodedCommand := by
  refine ⟨?command, ?fetched, ?waits⟩
  case command =>
    intro s w i rest hd
    rw [step_command, performCommand_ok hd]
  case fetched =>
    intro s w i hd
    rw [withFetchWord_eq, step_command, performCommand_ok hd]
    exact ⟨rfl, decodeTableWord_eq hd⟩
  case waits =>
    intro s hp
    rw [step, hp]

/-- Settles O9: each slice of STATUS holds one field's code, or nothing. -/
theorem statusFields : Obligations.StatusFields := by
  intro s w
  obtain ⟨hsstate, hstrat, herr, hfill, hcmp, hbelow, houtlen, hkeylen⟩ := statusWord_fields s
  obtain ⟨hlow, hmid, hout, hhigh⟩ := statusWord_reserved s
  refine ⟨hsstate.trans ?_, hstrat.trans ?_, hlow, herr.trans ?_, hfill, hcmp.trans ?_, hbelow.trans ?_, hmid, houtlen,
    hout, hkeylen, hhigh⟩
  · cases s.sstate <;> rfl
  · cases s.strat <;> rfl
  · cases s.err <;> rfl
  · cases s.cmp <;> rfl
  · cases s.below <;> rfl

/-- Settles O10: ID is the register at offset 0, which no write changes. -/
theorem idIsConstant : Obligations.IdIsConstant := by
  refine ⟨?reads, ?ignores, by decide, by decide, by decide, by decide⟩
  case reads =>
    intro s rest
    exact (step_read s (Reg.offset .id) rest (offset_lt _) (offset_mod _)).trans (by rw [readOffset_offset]; rfl)
  case ignores =>
    intro s v rest
    refine (step_write s (Reg.offset .id) v rest (offset_lt _) (offset_mod _)).trans ?_
    rw [writeOffset_offset _ _ _ (by decide)]
    rfl
end

section
/-! PROOFS. Which commands write the flags of STATUS, and that none reads ERR, CMP or BELOW (10_state.md R41). -/

namespace Sys2Proof.Machine

/-! ### Writing the flags -/

/-- The three flags that no command reads, replaced. -/
def State.setFlags (e : ErrCode) (c : CmpResult) (b : Bool) (s : State) : State :=
  { s with err := e, cmp := c, below := b }

/-- The two comparison flags, replaced. -/
def State.setCmpBelow (c : CmpResult) (b : Bool) (s : State) : State := { s with cmp := c, below := b }

/-- A command's own ERR code replaces the one it found. -/
theorem setFlags_setErr (e code : ErrCode) (c : CmpResult) (b : Bool) (s : State) :
    (s.setFlags e c b).setErr code = (s.setErr code).setCmpBelow c b := rfl

theorem openSession_setFlags (e : ErrCode) (c : CmpResult) (b : Bool) (s : State) (outlen keylen : BitVec 7)
    (strat : Strategy) :
    (s.setFlags e c b).openSession outlen keylen strat = (s.openSession outlen keylen strat).setFlags e c b := rfl

theorem absorbByte_setFlags (e : ErrCode) (c : CmpResult) (b : Bool) (s : State) (x : Byte) :
    (s.setFlags e c b).absorbByte x = (s.absorbByte x).setFlags e c b := by
  by_cases hfull : s.fill = 128
  · have hfull' : (s.setFlags e c b).fill = 128 := hfull
    rw [State.absorbByte, State.absorbByte, if_pos hfull, if_pos hfull']
    rfl
  · have hfull' : (s.setFlags e c b).fill ≠ 128 := hfull
    rw [State.absorbByte, State.absorbByte, if_neg hfull, if_neg hfull']
    rfl

theorem absorbBytes_setFlags (e : ErrCode) (c : CmpResult) (b : Bool) (s : State) (l : List Byte) :
    (s.setFlags e c b).absorbBytes l = (s.absorbBytes l).setFlags e c b := by
  induction l generalizing s with
  | nil => rfl
  | cons x l ih => rw [absorbBytes_cons, absorbByte_setFlags, ih, absorbBytes_cons]

theorem closeSession_setFlags (e : ErrCode) (c : CmpResult) (b : Bool) (s : State) :
    (s.setFlags e c b).closeSession = s.closeSession.setFlags e c b := rfl

/-! ### Reading the flags -/

/-- A comparison that succeeds replaces all three flags. -/
theorem exec_setFlags_of_compares {i : Instr} {s : State} (h : i = .cmp ∨ i = .cmpd ∧ s.sstate = .finalized)
    (e : ErrCode) (c : CmpResult) (b : Bool) : exec i (s.setFlags e c b) = exec i s := by
  rcases h with rfl | ⟨rfl, hs⟩
  · rfl
  · rw [exec_cmpd s hs, exec_cmpd (s.setFlags e c b) hs]
    rfl

/-- Any other command replaces ERR and keeps CMP and BELOW. -/
theorem exec_setFlags {i : Instr} {s : State} (h : ¬ (i = .cmp ∨ i = .cmpd ∧ s.sstate = .finalized))
    (e : ErrCode) (c : CmpResult) (b : Bool) :
    exec i (s.setFlags e c b) = onNext (State.setCmpBelow c b) (exec i s) := by
  cases i with
  | init outlen keylen strat =>
    by_cases hs : s.sstate = .absorbing
    · rw [exec_init_open s _ _ _ hs, exec_init_open (s.setFlags e c b) _ _ _ hs, setFlags_setErr, onNext_next]
    · rw [exec_init s _ _ _ hs, exec_init (s.setFlags e c b) _ _ _ hs, openSession_setFlags, setFlags_setErr,
        onNext_next]
  | absorb len =>
    by_cases hs : s.sstate = .absorbing
    · have hdin : (s.setFlags e c b).dinBytes len.toNat = s.dinBytes len.toNat := rfl
      rw [exec_absorb s len hs, exec_absorb (s.setFlags e c b) len hs, hdin, absorbBytes_setFlags, setFlags_setErr,
        onNext_next]
    · rw [exec_absorb_closed s len hs, exec_absorb_closed (s.setFlags e c b) len hs, setFlags_setErr, onNext_next]
  | final =>
    by_cases hs : s.sstate = .absorbing
    · rw [exec_final s hs, exec_final (s.setFlags e c b) hs, closeSession_setFlags, setFlags_setErr, onNext_next]
    · rw [exec_final_closed s hs, exec_final_closed (s.setFlags e c b) hs, setFlags_setErr, onNext_next]
  | cmp => exact absurd (.inl rfl) h
  | cmpd =>
    have hs : s.sstate ≠ .finalized := fun hs => h (.inr ⟨rfl, hs⟩)
    rw [exec_cmpd_open s hs, exec_cmpd_open (s.setFlags e c b) hs, setFlags_setErr, onNext_next]
  | endian form => cases form <;> rfl
  | ctrinc variant => rfl

/-! ### What a command writes -/

/-- A command fails with INVALID_STATE and changes nothing but ERR, or ends with ERR = OK; then only a comparison writes
CMP and BELOW, only INIT and ABSORB write FILL, only INIT and FINAL write the session state. -/
theorem exec_flag_writers {i : Instr} {s t : State} (h : exec i s = .next t) :
    t = s.setErr .invalidState ∨
      t.err = .ok ∧
      ((i = .cmp ∨ i = .cmpd) ∨ t.cmp = s.cmp ∧ t.below = s.below) ∧
      (((∃ o k st, i = .init o k st) ∨ ∃ len, i = .absorb len) ∨ t.fill = s.fill) ∧
      (((∃ o k st, i = .init o k st) ∨ i = .final) ∨ t.sstate = s.sstate) := by
  rcases exec_cases h with h | ⟨o, k, st, hi, -, h⟩ | ⟨len, hi, -, h⟩ | ⟨hi, -, h⟩ | ⟨hi, h⟩ | ⟨hi, -, h⟩ | ⟨hi, h⟩ |
    ⟨hi, h⟩ | ⟨v, hi, h⟩ <;> cases h
  case inl => exact .inl rfl
  case inr.inl => exact .inr ⟨rfl, .inr ⟨rfl, rfl⟩, .inl (.inl ⟨o, k, st, hi⟩), .inl (.inl ⟨o, k, st, hi⟩)⟩
  case inr.inr.inl =>
    exact .inr ⟨rfl, .inr ⟨absorbBytes_cmp s _, absorbBytes_below s _⟩, .inl (.inr ⟨len, hi⟩),
      .inr (absorbBytes_sstate s _)⟩
  case inr.inr.inr.inl => exact .inr ⟨rfl, .inr ⟨rfl, rfl⟩, .inr rfl, .inl (.inr hi)⟩
  case inr.inr.inr.inr.inl => exact .inr ⟨rfl, .inl (.inl hi), .inr rfl, .inr rfl⟩
  case inr.inr.inr.inr.inr.inl => exact .inr ⟨rfl, .inl (.inr hi), .inr rfl, .inr rfl⟩
  all_goals exact .inr ⟨rfl, .inr ⟨rfl, rfl⟩, .inr rfl, .inr rfl⟩

theorem writeReg_statusWord (s : State) (r : Reg) (v : Word) : (s.writeReg r v).statusWord = s.statusWord := by
  cases r <;> rfl

/-- No command reads ERR. -/
theorem exec_setErr (i : Instr) (s : State) (e : ErrCode) : exec i (s.setErr e) = exec i s := by
  have hs : s.setErr e = s.setFlags e s.cmp s.below := rfl
  have hself : s.setFlags s.err s.cmp s.below = s := rfl
  by_cases h : i = .cmp ∨ i = .cmpd ∧ s.sstate = .finalized
  · rw [hs, exec_setFlags_of_compares h]
  · rw [hs, exec_setFlags h, ← exec_setFlags h s.err, hself]

/-- Every word written to CMD completes, with OK or with a code in ERR and nothing else changed (60_exceptions.md R200,
R201). -/
theorem performCommand_completes (w : Word) (s : State) :
    ∃ t, performCommand w s = .next t ∧ (t.err ≠ .ok → t = s.setErr t.err) := by
  rcases performCommand_cases w s with ⟨i, t, -, hx, hc⟩ | ⟨-, hc⟩
  · refine ⟨t, hc, fun hne => ?_⟩
    rcases exec_flag_writers hx with rfl | ⟨hok, -⟩
    · rfl
    · exact absurd hok hne
  · exact ⟨_, hc, fun _ => rfl⟩

theorem performCommand_setErr (w : Word) (s : State) (e : ErrCode) :
    performCommand w (s.setErr e) = performCommand w s := by
  cases hd : decode w with
  | ok i => rw [performCommand_ok hd, performCommand_ok hd, exec_setErr]
  | error r =>
    rw [performCommand, performCommand, hd]
    rfl

end Sys2Proof.Machine

open Sys2Proof Sys2Proof.Machine

/-- Settles O46: the writers by the cases of a command, the readers because replacing the flags first makes no other
difference. -/
theorem flagWriters : Obligations.FlagWriters := by
  refine ⟨?commands, writeReg_statusWord, ?words, ?readers⟩
  case commands =>
    intro i s t h
    rcases exec_flag_writers h with rfl | ⟨hok, hcmp, hfill, hsstate⟩
    · simp
    · refine ⟨fun hne => ⟨hcmp.resolve_right ?_, hok⟩, fun hne => ⟨hfill.resolve_right hne, hok⟩,
        fun hne => ⟨hsstate.resolve_right hne, hok⟩⟩
      rintro ⟨hc, hb⟩
      exact hne.elim (absurd hc) (absurd hb)
  case words =>
    intro w s
    exact ⟨performCommand_setErr w s, performCommand_completes w s⟩
  case readers =>
    intro i s e c b
    refine ⟨fun h => exec_setFlags_of_compares h e c b, fun hcmp hcmpd => exec_setFlags ?_ e c b⟩
    rintro (hi | ⟨hi, hs⟩)
    · exact hcmp hi
    · exact hcmpd hi hs
end

section
/-! PROOFS. The register window at the bus: what a read returns and what a write does at every offset, which register a
write changes, and where the bytes of a register lie (20_memory.md R61 to R63, R67). -/

namespace Sys2Proof.Machine

/-! ### The offsets that hold no register, and those that ignore a write -/

/-- The reserved offsets of the register map hold no register (10_state.md R22, R36). -/
theorem regAt_reserved {off : Nat}
    (h : off = 0x018 ∨ (0x050 ≤ off ∧ off ≤ 0x078) ∨ (0x158 ≤ off ∧ off ≤ 0x178) ∨ 0x240 ≤ off) :
    regAt off = none := by
  rw [Option.eq_none_iff_forall_ne_some]
  intro r hr
  have hoff := offset_of_regAt hr
  cases r <;> simp only [Reg.offset] at hoff <;> omega

/-- In the ranges of the read-only registers lie neither CMD nor an RW register (10_state.md R22). -/
theorem readOnly_of_offset {r : Reg}
    (h : r.offset = 0x000 ∨ r.offset = 0x010 ∨ r.offset = 0x018 ∨ r.offset = 0x030 ∨
      (0x050 ≤ r.offset ∧ r.offset ≤ 0x078) ∨ (0x0C0 ≤ r.offset ∧ r.offset ≤ 0x1F8) ∨ 0x240 ≤ r.offset) :
    r ≠ .cmd ∧ r.isRW = false := by
  cases r <;> simp only [Reg.offset] at h
  case cmd | din | ecvIn | ctrN | ctrLo | ctrHi | key | cmpa | thr => omega
  all_goals exact ⟨nofun, rfl⟩

/-! ### One access at the bus -/

/-- An access of the host in the window that is not an accepted one (20_memory.md R65). -/
theorem step_unaccepted (s : State) (a : BusAccess) (rest : List Input) (hw : s.inWindow a.addr = true)
    (ha : s.accepts a = false) :
    step { s with pending := .bus s.owner a :: rest } = .fault (.busError a.addr) := by
  have hw' : ({ s with pending := rest } : State).inWindow a.addr = true := hw
  have ha' : ({ s with pending := rest } : State).accepts a = false := ha
  simp [step, takeInput, busCycle, hw', ha']

theorem inWindow_base_add {off : Nat} (s : State) (h : off < Config.windowSize) :
    s.inWindow (s.base + off) = true := by
  rw [State.inWindow_iff]
  omega

/-- A misaligned access is not accepted, whatever its width. -/
theorem accepts_misaligned {s : State} {a : BusAccess} {off : Nat} (ha : a.addr = s.base + off) (h8 : off % 8 ≠ 0) :
    s.accepts a = false := by
  simp [State.accepts, ha, h8]

theorem step_read_register (s : State) (r : Reg) (rest : List Input) :
    step { s with pending := .bus s.owner (.read (s.base + r.offset) 8) :: rest } =
      .next { s with pending := rest, reply := .data (s.readReg r) } := by
  rw [step_read s r.offset rest (offset_lt r) (offset_mod r), readOffset_offset]

theorem readOffset_unmapped {off : Nat} (s : State) (h : regAt off = none) : s.readOffset off = 0 := by
  rw [State.readOffset, h]

theorem step_write_register (s : State) {r : Reg} (v : Word) (rest : List Input) (h : r ≠ .cmd) :
    step { s with pending := .bus s.owner (.write (s.base + r.offset) 8 v) :: rest } =
      .next { s.writeReg r v with pending := rest, reply := .written } := by
  rw [step_write s r.offset v rest (offset_lt r) (offset_mod r), writeOffset_offset _ _ _ h, onNext_next]
  cases r <;> rfl

theorem writeReg_readOnly (s : State) {r : Reg} (v : Word) (h : r.isRW = false) : s.writeReg r v = s := by
  cases r
  case din | ecvIn | ctrN | ctrLo | ctrHi | key | cmpa | thr => cases h
  all_goals rfl

theorem writeOffset_unmapped {off : Nat} (v : Word) (s : State) (h : regAt off = none) :
    writeOffset off v s = .next s := by
  rw [writeOffset, h]

/-- A write at a reserved offset or of an RO register is ignored (20_memory.md R62). -/
theorem writeOffset_ignored {off : Nat} (v : Word) (s : State)
    (h : off = 0x000 ∨ off = 0x010 ∨ off = 0x018 ∨ off = 0x030 ∨ (0x050 ≤ off ∧ off ≤ 0x078) ∨
      (0x0C0 ≤ off ∧ off ≤ 0x1F8) ∨ 0x240 ≤ off) :
    writeOffset off v s = .next s := by
  rcases hr : regAt off with _ | r
  · exact writeOffset_unmapped v s hr
  · obtain rfl := offset_of_regAt hr
    obtain ⟨hcmd, hro⟩ := readOnly_of_offset h
    rw [writeOffset_offset s r v hcmd, writeReg_readOnly s v hro]

theorem readReg_buf (s : State) (i : Fin 16) : s.readReg (.buf i) = (messageBlock s.buf)[i] := by
  simp [State.readReg, messageBlock]

/-! ### A register read after a write -/

/-- What a register reads does not depend on the host's program or on the last answer. -/
theorem readReg_host (s : State) (q : Reg) (inputs : List Input) (r : Reply) :
    ({ s with pending := inputs, reply := r } : State).readReg q = s.readReg q := by
  cases q <;> rfl

theorem ne_cmd_of_isRW {r : Reg} (h : r.isRW = true) : r ≠ .cmd := by
  rintro rfl
  cases h

theorem readReg_writeReg_same (s : State) {r : Reg} (v : Word) (h : r.isRW = true) :
    (s.writeReg r v).readReg r = v := by
  cases r
  case key i => exact Vector.getElem_set_self i.isLt
  case cmpa i => exact Vector.getElem_set_self i.isLt
  case thr i => exact Vector.getElem_set_self i.isLt
  case din | ecvIn | ctrN | ctrLo | ctrHi => rfl
  all_goals cases h

/-- Replacing one element of a register bank leaves the others. -/
theorem getElem_set_of_ne {n : Nat} (bank : Vector Word n) {i j : Fin n} (v : Word) (h : j ≠ i) :
    (bank.set i v)[j] = bank[j] :=
  Vector.getElem_set_ne i.isLt j.isLt fun hij => h (Fin.ext hij.symm)

/-- A write of one register is seen by no other: the registers do not overlap, and STATUS, the only register assembled of
several fields, holds none of an RW register. -/
theorem readReg_writeReg_ne (s : State) {r q : Reg} (v : Word) (h : q ≠ r) :
    (s.writeReg r v).readReg q = s.readReg q := by
  cases r with
  | key i =>
    cases q with
    | key j => exact getElem_set_of_ne s.key v fun hij => h (congrArg Reg.key hij)
    | _ => rfl
  | cmpa i =>
    cases q with
    | cmpa j => exact getElem_set_of_ne s.cmpa v fun hij => h (congrArg Reg.cmpa hij)
    | _ => rfl
  | thr i =>
    cases q with
    | thr j => exact getElem_set_of_ne s.thr v fun hij => h (congrArg Reg.thr hij)
    | _ => rfl
  | din => cases q with | din => exact absurd rfl h | _ => rfl
  | ecvIn => cases q with | ecvIn => exact absurd rfl h | _ => rfl
  | ctrN => cases q with | ctrN => exact absurd rfl h | _ => rfl
  | ctrLo => cases q with | ctrLo => exact absurd rfl h | _ => rfl
  | ctrHi => cases q with | ctrHi => exact absurd rfl h | _ => rfl
  | _ => rfl

theorem readReg_writeReg (s : State) {r : Reg} (q : Reg) (v : Word) (h : r.isRW = true) :
    (s.writeReg r v).readReg q = if q = r then v else s.readReg q := by
  split
  next hq => rw [hq, readReg_writeReg_same s v h]
  next hq => exact readReg_writeReg_ne s v hq

theorem run_succ_of_step {s t : State} {n : Nat} (h : step s = .next t) :
    Host.Core.run core (n + 1) s = Host.Core.run core n t := by
  have hcore : core.step s = .next t := h
  simp only [Host.Core.run, hcore]

/-- The host's read of `q` after a write of `r` answers what `q` then holds. -/
theorem step_read_after_write (s : State) (r q : Reg) (v : Word) :
    step { s.writeReg r v with
        pending := [.bus s.owner (.read (s.base + q.offset) 8)], reply := .written } =
      .next { s.writeReg r v with pending := [], reply := .data ((s.writeReg r v).readReg q) } := by
  obtain ⟨hbase, howner, -, -⟩ := writeReg_host s r v
  rw [← hbase, ← howner, ← readReg_host (s.writeReg r v) q [] .written]
  exact step_read_register { s.writeReg r v with pending := [], reply := .written } q []

/-! ### The bytes of a register -/

/-- Byte `k` of a register lies `k` bytes after its offset (20_memory.md R63). -/
theorem windowByte_register (s : State) (r : Reg) {k : Nat} (hk : k < 8) :
    s.windowByte (s.base + r.offset + k) = some (byteLane (s.readReg r) k) := by
  have hlt := offset_lt r
  have h8 := offset_mod r
  have hin : s.base ≤ s.base + r.offset + k ∧ s.base + r.offset + k < s.base + Config.windowSize := by
    simp only [Config.windowSize] at *
    omega
  have hoff : s.base + r.offset + k - s.base = r.offset + k := by omega
  have hlane : (r.offset + k) % 8 = k := by omega
  rw [State.windowByte, if_pos hin]
  simp only [hoff, hlane, Nat.add_sub_cancel, readOffset_offset]

/-- Byte `j` of a bank of registers 8 bytes apart is lane `j % 8` of its register `j / 8`. -/
theorem windowByte_bank (s : State) (bank : Fin 8 → Reg) (first : Nat)
    (hbank : ∀ i, (bank i).offset = first + 8 * i.val) (j : Fin 64) :
    s.windowByte (s.base + first + j.val) =
      some (byteLane (s.readReg (bank ⟨j.val / 8, by omega⟩)) (j.val % 8)) := by
  rw [← windowByte_register s _ (Nat.mod_lt _ (by decide)), hbank]
  congr 1
  dsimp only
  omega

end Sys2Proof.Machine

open Sys2Proof Sys2Proof.Machine

/-- Settles O7: a register answers its value, a reserved offset holds none and answers 0, a misaligned read is refused. -/
theorem windowReads : Obligations.WindowReads := by
  intro s rest read answers
  refine ⟨?misaligned, step_read_register s .id rest, step_read_register s .cmd rest,
    step_read_register s .status rest, step_read_register s .din rest, step_read_register s .ecvIn rest,
    step_read_register s .ecvOut rest, step_read_register s .ctrN rest, step_read_register s .ctrLo rest,
    step_read_register s .ctrHi rest, fun i => step_read_register s (.key i) rest,
    fun i => step_read_register s (.dout i) rest, fun i => step_read_register s (.h i) rest,
    step_read_register s .t0 rest, step_read_register s .t1 rest, step_read_register s .ccount rest, ?buffer,
    fun i => step_read_register s (.cmpa i) rest, fun i => step_read_register s (.thr i) rest, ?reserved⟩
  case misaligned =>
    intro off hlt h8
    exact step_unaccepted s (.read (s.base + off) 8) rest (inWindow_base_add s hlt) (accepts_misaligned rfl h8)
  case buffer =>
    intro i
    have h := step_read_register s (.buf i) rest
    rwa [readReg_buf] at h
  case reserved =>
    intro off hlt h8 hres
    have h := step_read s off rest hlt h8
    rwa [readOffset_unmapped s (regAt_reserved hres)] at h

/-- Settles O8: a write to CMD performs the word, an RW register takes the value, and every other aligned offset ignores
the write. -/
theorem windowWrites : Obligations.WindowWrites := by
  intro s v rest write u
  refine ⟨?misaligned, ?command, step_write_register s (r := .din) v rest nofun,
    step_write_register s (r := .ecvIn) v rest nofun, step_write_register s (r := .ctrN) v rest nofun,
    step_write_register s (r := .ctrLo) v rest nofun, step_write_register s (r := .ctrHi) v rest nofun,
    fun i => step_write_register s (r := .key i) v rest nofun,
    fun i => step_write_register s (r := .cmpa i) v rest nofun,
    fun i => step_write_register s (r := .thr i) v rest nofun, ?ignored⟩
  case misaligned =>
    intro off hlt h8
    exact step_unaccepted s (.write (s.base + off) 8 v) rest (inWindow_base_add s hlt) (accepts_misaligned rfl h8)
  case command =>
    refine (step_command s v rest).trans ?_
    rw [performCommand]
    cases decode v <;> rfl
  case ignored =>
    intro off hlt h8 hign
    refine (step_write s off v rest hlt h8).trans ?_
    rw [writeOffset_ignored v _ hign]
    rfl

/-- Settles O13: the write is one step and the read the next; the read sees the written register and no other change. -/
theorem writeThenRead : Obligations.WriteThenRead := by
  intro s r q v hrw u
  have hwrite := step_write_register s v [.bus s.owner (.read (s.base + q.offset) 8)] (ne_cmd_of_isRW hrw)
  have hread := step_read_after_write s r q v
  rw [readReg_writeReg s q v hrw] at hread
  exact (run_succ_of_step hwrite).trans (run_succ_of_step hread)

/-- Settles O14: each register's bytes lie in lane order, and KEY and DOUT are banks of eight such registers. -/
theorem littleEndianLanes : Obligations.LittleEndianLanes := by
  intro s
  refine ⟨fun r k hk => windowByte_register s r hk, fun k hk => (windowByte_register s .din hk).symm, ?key, ?digest⟩
  case key => exact fun j => (windowByte_bank s .key 0x080 (fun _ => rfl) j).symm
  case digest => exact fun j => (windowByte_bank s .dout 0x0C0 (fun _ => rfl) j).symm
end

section
/-! PROOFS. A move that is no reset advances one slot in its place, so moves at two places commute (20_memory.md R68). -/

namespace Sys2Proof.Machine

/-- A move that is no reset advances the instance's own slot, if there is one, and nothing else (60_exceptions.md R210). -/
theorem System.stepAt_eq_modify {slots : List Slot} {k : Nat}
    (h : ∀ sl, slots[k]? = some sl → sl.resetIsNext = false) :
    (System.mk slots).stepAt k = { slots := slots.modify k Slot.advance } := by
  rcases hk : slots[k]? with _ | sl
  · rw [System.stepAt, hk, List.modify_eq_self (List.getElem?_eq_none_iff.mp hk)]
  · rw [System.stepAt, hk, List.modify_eq_set_getElem?, hk]
    simp [h sl hk]

end Sys2Proof.Machine

open Sys2Proof.Machine

/-- Settles O51: each move modifies one slot, and the slot of the other instance is still about to make the same move. -/
theorem instanceMovesCommute : Obligations.InstanceMovesCommute := by
  rintro ⟨slots⟩ j k hjk hj hk
  have hk' : ∀ sl, (slots.modify j Slot.advance)[k]? = some sl → sl.resetIsNext = false := by
    rwa [List.getElem?_modify_ne Slot.advance slots hjk]
  have hj' : ∀ sl, (slots.modify k Slot.advance)[j]? = some sl → sl.resetIsNext = false := by
    rwa [List.getElem?_modify_ne Slot.advance slots hjk.symm]
  rw [System.stepAt_eq_modify hj, System.stepAt_eq_modify hk, System.stepAt_eq_modify hk',
    System.stepAt_eq_modify hj', List.modify_modify_ne _ _ _ hjk]
end

section
/-! PROOFS. The command word: a word is the encoding of a command exactly when each slice of the command's format holds its
field, so decoding and the opcode table take the same words (30_encoding.md R80 to R85). -/

namespace Sys2Proof

/-! ### A word is the sum of its slices -/

/-- Words agree on a slice exactly when they agree on both parts of a cut of it. -/
theorem slice_eq_iff {x y : Word} {start n : Nat} (a b : Nat) (h : a + b = n) :
    x.extractLsb' start n = y.extractLsb' start n ↔
      x.extractLsb' start a = y.extractLsb' start a ∧
        x.extractLsb' (start + a) b = y.extractLsb' (start + a) b := by
  subst h
  simp only [BitVec.eq_of_getLsbD_eq_iff, BitVec.getLsbD_extractLsb']
  constructor
  · intro hxy
    refine ⟨fun j hj => ?_, fun j hj => ?_⟩
    · have hjab : j < a + b := by omega
      simpa [hj, hjab] using hxy j hjab
    · simpa [hj, Nat.add_assoc] using hxy (a + j) (by omega)
  · rintro ⟨hlow, hhigh⟩ j hj
    by_cases hja : j < a
    · simpa [hja, hj] using hlow j hja
    · have hjb : j - a < b := by omega
      have hbit : start + a + (j - a) = start + j := by omega
      simpa [hj, hjb, hbit] using hhigh (j - a) hjb

/-- The cuts of format I, INIT (30_encoding.md R81). -/
theorem formatI_ext_iff {x y : Word} : x = y ↔
    x.extractLsb' 0 8 = y.extractLsb' 0 8 ∧ x.extractLsb' 8 7 = y.extractLsb' 8 7 ∧
      x.extractLsb' 15 1 = y.extractLsb' 15 1 ∧ x.extractLsb' 16 7 = y.extractLsb' 16 7 ∧
      x.extractLsb' 23 1 = y.extractLsb' 23 1 ∧ x.extractLsb' 24 1 = y.extractLsb' 24 1 ∧
      x.extractLsb' 25 7 = y.extractLsb' 25 7 ∧ x.extractLsb' 32 32 = y.extractLsb' 32 32 := by
  rw [← slice_eq_iff 7 32 rfl, ← slice_eq_iff 1 39 rfl, ← slice_eq_iff 1 40 rfl, ← slice_eq_iff 7 41 rfl,
    ← slice_eq_iff 1 48 rfl, ← slice_eq_iff 7 49 rfl, ← slice_eq_iff 8 56 rfl, BitVec.extractLsb'_eq_self,
    BitVec.extractLsb'_eq_self]

/-- The cuts of format L, ABSORB (30_encoding.md R81). -/
theorem formatL_ext_iff {x y : Word} : x = y ↔
    x.extractLsb' 0 8 = y.extractLsb' 0 8 ∧ x.extractLsb' 8 4 = y.extractLsb' 8 4 ∧
      x.extractLsb' 12 20 = y.extractLsb' 12 20 ∧ x.extractLsb' 32 32 = y.extractLsb' 32 32 := by
  rw [← slice_eq_iff 20 32 rfl, ← slice_eq_iff 4 52 rfl, ← slice_eq_iff 8 56 rfl, BitVec.extractLsb'_eq_self,
    BitVec.extractLsb'_eq_self]

/-- The cuts of format B, ENDIAN and CTRINC (30_encoding.md R81). -/
theorem formatB_ext_iff {x y : Word} : x = y ↔
    x.extractLsb' 0 8 = y.extractLsb' 0 8 ∧ x.extractLsb' 8 1 = y.extractLsb' 8 1 ∧
      x.extractLsb' 9 23 = y.extractLsb' 9 23 ∧ x.extractLsb' 32 32 = y.extractLsb' 32 32 := by
  rw [← slice_eq_iff 23 32 rfl, ← slice_eq_iff 1 55 rfl, ← slice_eq_iff 8 56 rfl, BitVec.extractLsb'_eq_self,
    BitVec.extractLsb'_eq_self]

/-- The cuts of format N, FINAL, CMP and CMPD (30_encoding.md R81). -/
theorem formatN_ext_iff {x y : Word} : x = y ↔
    x.extractLsb' 0 8 = y.extractLsb' 0 8 ∧ x.extractLsb' 8 24 = y.extractLsb' 8 24 ∧
      x.extractLsb' 32 32 = y.extractLsb' 32 32 := by
  rw [← slice_eq_iff 24 32 rfl, ← slice_eq_iff 8 56 rfl, BitVec.extractLsb'_eq_self, BitVec.extractLsb'_eq_self]

/-! ### Decoding and encoding -/

/-- Every slice of `w` holds what the command's format puts there: the opcode, the fields, and 0 in the reserved bits
(30_encoding.md R81). -/
def Instr.LaidOut (w : Word) (i : Instr) : Prop :=
  w.extractLsb' 0 8 = i.opcode ∧
  (match i with
    | .init outlen keylen strat =>
      w.extractLsb' 8 7 = outlen ∧ w.extractLsb' 15 1 = 0 ∧ w.extractLsb' 16 7 = keylen ∧ w.extractLsb' 23 1 = 0 ∧
        w.extractLsb' 24 1 = strat.code ∧ w.extractLsb' 25 7 = 0
    | .absorb len => w.extractLsb' 8 4 = len ∧ w.extractLsb' 12 20 = 0
    | .final => w.extractLsb' 8 24 = 0
    | .cmp => w.extractLsb' 8 24 = 0
    | .cmpd => w.extractLsb' 8 24 = 0
    | .endian form => w.extractLsb' 8 1 = form.code ∧ w.extractLsb' 9 23 = 0
    | .ctrinc variant => w.extractLsb' 8 1 = variant.code ∧ w.extractLsb' 9 23 = 0) ∧
  w.extractLsb' 32 32 = 0

/-- The encoder places the fields apart from each other, and they and the reserved bits are the whole word. -/
theorem laidOut_iff (w : Word) (i : Instr) : i.LaidOut w ↔ w = encode i := by
  cases i with
  | init outlen keylen strat =>
    rw [formatI_ext_iff]
    simp [Instr.LaidOut, encode, BitVec.extractLsb'_or, extract_field_same, extract_field_disjoint, and_assoc]
  | absorb len =>
    rw [formatL_ext_iff]
    simp [Instr.LaidOut, encode, BitVec.extractLsb'_or, extract_field_same, extract_field_disjoint, and_assoc]
  | endian form | ctrinc form =>
    rw [formatB_ext_iff]
    simp [Instr.LaidOut, encode, BitVec.extractLsb'_or, extract_field_same, extract_field_disjoint, and_assoc]
  | final | cmp | cmpd =>
    rw [formatN_ext_iff]
    simp [Instr.LaidOut, encode, extract_field_same, extract_field_disjoint]

/-- The decoder finds every field in its place (30_encoding.md R85). -/
theorem decode_of_laidOut {w : Word} {i : Instr} (h : i.LaidOut w) (hwf : i.WellFormed) : decode w = .ok i := by
  cases i with
  | init outlen keylen strat =>
    obtain ⟨hop, ⟨hout, hres15, hkey, hres23, hstrat, hres25⟩, hup⟩ := h
    obtain ⟨⟨hpos, hmax⟩, hkmax⟩ := (wellFormed_init outlen keylen strat).mp hwf
    have hout' : ¬ (outlen.toNat < 1 ∨ Config.maxOutlen < outlen.toNat) := by simp only [Config.maxOutlen]; omega
    have hkey' : ¬ Config.maxKeylen < keylen.toNat := Nat.not_lt.mpr hkmax
    rw [decode, hup, hop, hout, hres15, hkey, hres23, hstrat, hres25, if_neg hout', if_neg hkey', ofBit_code_strategy]
    rfl
  | absorb len =>
    obtain ⟨hop, ⟨hlen, hres⟩, hup⟩ := h
    have hmax : ¬ Config.maxAbsorb < len.toNat := Nat.not_lt.mpr ((wellFormed_absorb len).mp hwf)
    rw [decode, hup, hop, hlen, hres, if_neg hmax]
    rfl
  | final | cmp | cmpd =>
    obtain ⟨hop, hres, hup⟩ := h
    rw [decode, hup, hop, hres]
    rfl
  | endian form =>
    obtain ⟨hop, ⟨hform, hres⟩, hup⟩ := h
    rw [decode, hup, hop, hform, hres, ofBit_code_form]
    rfl
  | ctrinc variant =>
    obtain ⟨hop, ⟨hvariant, hres⟩, hup⟩ := h
    rw [decode, hup, hop, hvariant, hres, ofBit_code_strategy]
    rfl

/-- The decoder checks every reserved bit and every range (30_encoding.md R84, R85). -/
theorem laidOut_of_decode {w : Word} {i : Instr} (h : decode w = .ok i) : i.WellFormed ∧ i.LaidOut w := by
  unfold decode at h
  split at h
  next => cases h
  next hup =>
  rw [not_not] at hup
  have hopcode {b : Byte} (hb : (w.extractLsb' 0 8).toNat = b.toNat) : w.extractLsb' 0 8 = b :=
    BitVec.eq_of_toNat_eq hb
  split at h
  next hop =>
    split at h <;> [cases h; split at h <;> [cases h; split at h <;> cases h]]
    next hres hout hkey =>
    simp only [not_or, not_not, Config.maxOutlen, Config.maxKeylen] at hres hout hkey
    obtain ⟨hres25, hres23, hres15⟩ := hres
    rw [wellFormed_init]
    exact ⟨by omega, hopcode hop, ⟨rfl, hres15, rfl, hres23, (code_ofBit_strategy _).symm, hres25⟩, hup⟩
  next hop =>
    split at h <;> [cases h; split at h <;> cases h]
    next hres hlen =>
    rw [wellFormed_absorb]
    exact ⟨Nat.not_lt.mp hlen, hopcode hop, ⟨rfl, not_not.mp hres⟩, hup⟩
  iterate 3
    next hop =>
      split at h <;> cases h
      next hres => exact ⟨rfl, hopcode hop, not_not.mp hres, hup⟩
  next hop =>
    split at h <;> cases h
    next hres => exact ⟨rfl, hopcode hop, ⟨(code_ofBit_form _).symm, not_not.mp hres⟩, hup⟩
  next hop =>
    split at h <;> cases h
    next hres => exact ⟨rfl, hopcode hop, ⟨(code_ofBit_strategy _).symm, not_not.mp hres⟩, hup⟩
  next => cases h

/-- The decoder is the partial inverse of the encoder on the well-formed commands, and takes no other word. -/
theorem decode_eq_ok_iff {w : Word} {i : Instr} : decode w = .ok i ↔ i.WellFormed ∧ w = encode i := by
  rw [← laidOut_iff]
  exact ⟨laidOut_of_decode, fun ⟨hwf, hlaid⟩ => decode_of_laidOut hlaid hwf⟩

theorem decode_encode {i : Instr} (h : i.WellFormed) : decode (encode i) = .ok i := decode_eq_ok_iff.mpr ⟨h, rfl⟩

/-- The eight lanes of a word on the bus carry the word (20_memory.md R63). -/
theorem decodeBytes_lanes (w : Word) : decodeBytes (lanes w).toList = decode w := congrArg decode (le64_lanes w)

end Sys2Proof

namespace Sys2Proof.Machine

/-! ### The rows of the opcode table -/

theorem toNat_slice (w : Word) (lo n : Nat) : (w.extractLsb' lo n).toNat = w.toNat / 2 ^ lo % 2 ^ n := by
  rw [BitVec.extractLsb'_toNat, Nat.shiftRight_eq_div_pow]

theorem and_of_eq_allOnes {n : Nat} (v : BitVec n) {m : BitVec n} (h : m = BitVec.allOnes n) : v &&& m = v := by
  rw [h, BitVec.and_allOnes]

theorem rowTakes_iff (mask bits : Nat) (w : Word) :
    rowTakes mask bits w = true ↔ w &&& BitVec.ofNat 64 mask = BitVec.ofNat 64 bits := by
  rw [rowTakes, beq_iff_eq]

/-- The row of INIT fixes the opcode and the reserved bits; its constraints are INIT's ranges. -/
theorem legalRow_init (w : Word) :
    ((rowTakes 0xFFFFFFFFFE8080FF 0x01 w = true ∧ 1 ≤ w.toNat / 2 ^ 8 % 2 ^ 7 ∧ w.toNat / 2 ^ 8 % 2 ^ 7 ≤ 64) ∧
      w.toNat / 2 ^ 16 % 2 ^ 7 ≤ 64) ↔
    ∃ outlen keylen strat,
      (Instr.init outlen keylen strat).WellFormed ∧ (Instr.init outlen keylen strat).LaidOut w := by
  have hrow : rowTakes 0xFFFFFFFFFE8080FF 0x01 w = true ↔
      w.extractLsb' 0 8 = 0x01 ∧ w.extractLsb' 15 1 = 0 ∧ w.extractLsb' 23 1 = 0 ∧ w.extractLsb' 25 7 = 0 ∧
        w.extractLsb' 32 32 = 0 := by
    rw [rowTakes_iff, formatI_ext_iff]
    simp (disch := decide) [BitVec.extractLsb'_and, and_of_eq_allOnes]
  simp only [hrow, wellFormed_init, ← toNat_slice]
  constructor
  · rintro ⟨⟨⟨hop, hres15, hres23, hres25, hup⟩, hout⟩, hkey⟩
    exact ⟨_, _, _, ⟨hout, hkey⟩, hop, ⟨rfl, hres15, rfl, hres23, (code_ofBit_strategy _).symm, hres25⟩, hup⟩
  · rintro ⟨_, _, _, ⟨hout, hkey⟩, hop, ⟨rfl, hres15, rfl, hres23, -, hres25⟩, hup⟩
    exact ⟨⟨⟨hop, hres15, hres23, hres25, hup⟩, hout⟩, hkey⟩

/-- The row of ABSORB leaves LEN free; its constraint is ABSORB's range. -/
theorem legalRow_absorb (w : Word) :
    (rowTakes 0xFFFFFFFFFFFFF0FF 0x02 w = true ∧ w.toNat / 2 ^ 8 % 2 ^ 4 ≤ 8) ↔
    ∃ len, (Instr.absorb len).WellFormed ∧ (Instr.absorb len).LaidOut w := by
  have hrow : rowTakes 0xFFFFFFFFFFFFF0FF 0x02 w = true ↔
      w.extractLsb' 0 8 = 0x02 ∧ w.extractLsb' 12 20 = 0 ∧ w.extractLsb' 32 32 = 0 := by
    rw [rowTakes_iff, formatL_ext_iff]
    simp (disch := decide) [BitVec.extractLsb'_and, and_of_eq_allOnes]
  simp only [hrow, wellFormed_absorb, ← toNat_slice]
  constructor
  · rintro ⟨⟨hop, hres, hup⟩, hlen⟩
    exact ⟨_, hlen, hop, ⟨rfl, hres⟩, hup⟩
  · rintro ⟨_, hlen, hop, ⟨rfl, hres⟩, hup⟩
    exact ⟨⟨hop, hres, hup⟩, hlen⟩

theorem ofNat_toNat_eq_field (b : Byte) : BitVec.ofNat 64 b.toNat = field b 0 := by simp [field]

/-- A row of format B leaves bit 8 free. -/
theorem rowTakes_formatB {b : Byte} (w : Word) : rowTakes 0xFFFFFFFFFFFFFEFF b.toNat w = true ↔
    w.extractLsb' 0 8 = b ∧ w.extractLsb' 9 23 = 0 ∧ w.extractLsb' 32 32 = 0 := by
  rw [rowTakes_iff, formatB_ext_iff, ofNat_toNat_eq_field]
  simp (disch := decide) [BitVec.extractLsb'_and, and_of_eq_allOnes, extract_field_same, extract_field_disjoint]

theorem rowTakes_endian (w : Word) :
    rowTakes 0xFFFFFFFFFFFFFEFF 0x06 w = true ↔ ∃ form, (Instr.endian form).LaidOut w := by
  refine (rowTakes_formatB (b := 0x06) w).trans ⟨?_, ?_⟩
  · rintro ⟨hop, hres, hup⟩
    exact ⟨_, hop, ⟨(code_ofBit_form _).symm, hres⟩, hup⟩
  · rintro ⟨form, hop, ⟨-, hres⟩, hup⟩
    exact ⟨hop, hres, hup⟩

theorem rowTakes_ctrinc (w : Word) :
    rowTakes 0xFFFFFFFFFFFFFEFF 0x07 w = true ↔ ∃ variant, (Instr.ctrinc variant).LaidOut w := by
  refine (rowTakes_formatB (b := 0x07) w).trans ⟨?_, ?_⟩
  · rintro ⟨hop, hres, hup⟩
    exact ⟨_, hop, ⟨(code_ofBit_strategy _).symm, hres⟩, hup⟩
  · rintro ⟨variant, hop, ⟨-, hres⟩, hup⟩
    exact ⟨hop, hres, hup⟩

/-- A row of format N takes one word. -/
theorem rowTakes_formatN {b : Byte} (w : Word) : rowTakes 0xFFFFFFFFFFFFFFFF b.toNat w = true ↔
    w.extractLsb' 0 8 = b ∧ w.extractLsb' 8 24 = 0 ∧ w.extractLsb' 32 32 = 0 := by
  rw [rowTakes_iff, and_of_eq_allOnes w (by decide), formatN_ext_iff, ofNat_toNat_eq_field]
  simp [extract_field_same, extract_field_disjoint]

theorem exists_instr_iff {p : Instr → Prop} : (∃ i, p i) ↔
    (∃ outlen keylen strat, p (.init outlen keylen strat)) ∨ (∃ len, p (.absorb len)) ∨ p .final ∨ p .cmp ∨ p .cmpd ∨
      (∃ form, p (.endian form)) ∨ ∃ variant, p (.ctrinc variant) := by
  constructor
  · rintro ⟨i, hi⟩
    cases i with
    | init outlen keylen strat => exact .inl ⟨_, _, _, hi⟩
    | absorb len => exact .inr (.inl ⟨_, hi⟩)
    | final => exact .inr (.inr (.inl hi))
    | cmp => exact .inr (.inr (.inr (.inl hi)))
    | cmpd => exact .inr (.inr (.inr (.inr (.inl hi))))
    | endian form => exact .inr (.inr (.inr (.inr (.inr (.inl ⟨_, hi⟩)))))
    | ctrinc variant => exact .inr (.inr (.inr (.inr (.inr (.inr ⟨_, hi⟩)))))
  · rintro (⟨_, _, _, hi⟩ | ⟨_, hi⟩ | hi | hi | hi | ⟨_, hi⟩ | ⟨_, hi⟩) <;> exact ⟨_, hi⟩

/-- The seven rows of the opcode table are the seven commands, one each (30_encoding.md R83). -/
theorem legalWord_iff (w : Word) : legalWord w = true ↔ ∃ i : Instr, i.WellFormed ∧ i.LaidOut w := by
  have hfinal : rowTakes 0xFFFFFFFFFFFFFFFF 0x03 w = true ↔ Instr.final.LaidOut w := rowTakes_formatN (b := 0x03) w
  have hcmp : rowTakes 0xFFFFFFFFFFFFFFFF 0x04 w = true ↔ Instr.cmp.LaidOut w := rowTakes_formatN (b := 0x04) w
  have hcmpd : rowTakes 0xFFFFFFFFFFFFFFFF 0x05 w = true ↔ Instr.cmpd.LaidOut w := rowTakes_formatN (b := 0x05) w
  rw [exists_instr_iff, ← legalRow_init, ← legalRow_absorb]
  simp only [legalWord, Bool.or_eq_true, Bool.and_eq_true, decide_eq_true_eq, or_assoc, hfinal, hcmp, hcmpd,
    rowTakes_endian, rowTakes_ctrinc, Instr.WellFormed, Instr.wellFormed, true_and]

theorem legalWord_iff_decodes (w : Word) : legalWord w = true ↔ ∃ i, decode w = .ok i := by
  simp only [legalWord_iff, decode_eq_ok_iff, laidOut_iff]

end Sys2Proof.Machine

open Sys2Proof Sys2Proof.Machine

/-- Settles O1: a well-formed command's encoding is laid out as its format says, and the lanes of a word carry it. -/
theorem commandWordRoundTrip : Obligations.CommandWordRoundTrip := by
  intro i hwf
  have hword := decode_encode hwf
  exact ⟨hword, (decodeBytes_lanes (encode i)).trans hword⟩

/-- Settles O2: the slices the decoder checks are the whole word. -/
theorem decodedWordIsItsEncoding : Obligations.DecodedWordIsItsEncoding := by
  intro w i hd
  obtain ⟨hwf, hword⟩ := decode_eq_ok_iff.mp hd
  exact ⟨hwf, hword.symm⟩

/-- Settles O3: a row of the table, within its ranges, takes the words laid out as its command. -/
theorem legalWordsAreTableRows : Obligations.LegalWordsAreTableRows := fun w => (legalWord_iff_decodes w).symm

/-- Settles O4: a word in no row decodes to no command, and the step that performs it fails. -/
theorem illegalWordFails : Obligations.IllegalWordFails := by
  intro s w rest hillegal
  have hnone : ¬ ∃ i, decode w = .ok i := by simp [← legalWord_iff_decodes, hillegal]
  rw [step_command]
  rcases performCommand_cases w { s with pending := rest } with ⟨i, -, hd, -⟩ | ⟨-, hfail⟩
  · exact absurd ⟨i, hd⟩ hnone
  · rw [hfail]
    rfl

/-- Settles O5: the decoder, run on each sample word. -/
theorem sampleWordsDecode : Obligations.SampleWordsDecode := by
  unfold Obligations.SampleWordsDecode
  decide
end

section
/-! PROOFS. Both counter strategies are the sum modulo 2^128 (42_counter.md R141, R142, R144). -/

namespace Sys2Proof.Machine

theorem toNat_counter (hi lo : Word) : (counter hi lo).toNat = hi.toNat * 2 ^ 64 + lo.toNat := by
  have hlt : hi.toNat * 2 ^ 64 + lo.toNat < 2 ^ 128 := by omega
  rw [counter, BitVec.toNat_ofNat, Nat.mod_eq_of_lt hlt]

theorem toNat_counterLo (c : BitVec 128) : (counterLo c).toNat = c.toNat % 2 ^ 64 := by simp [counterLo]

theorem toNat_counterHi (c : BitVec 128) : (counterHi c).toNat = c.toNat / 2 ^ 64 := by
  rw [counterHi, BitVec.extractLsb'_toNat, Nat.shiftRight_eq_div_pow]
  omega

/-- A limb is smaller after the addition than before exactly when the addition wrapped (42_counter.md R141). -/
theorem seqInc_eq_add (c : BitVec 128) (n : Word) : seqInc c n = c + n.setWidth 128 := by
  have hc := c.isLt
  have hn := n.isLt
  apply BitVec.eq_of_toNat_eq
  have hone : (1 : Word).toNat = 1 := rfl
  have hlo := toNat_counterLo c
  have hhi := toNat_counterHi c
  simp only [seqInc, toNat_counter, apply_ite BitVec.toNat, BitVec.lt_def, BitVec.toNat_add, hlo, hhi,
    BitVec.toNat_setWidth, hone]
  split <;> omega

theorem toNat_joinLimbs (hi lo : BitVec 32) : (joinLimbs hi lo).toNat = hi.toNat * 2 ^ 32 + lo.toNat := by
  have hlt : hi.toNat * 2 ^ 32 + lo.toNat < 2 ^ 64 := by omega
  rw [joinLimbs, BitVec.toNat_ofNat, Nat.mod_eq_of_lt hlt]

/-- One limb of the carry chain loses nothing: the limb and the carry out are the whole sum (42_counter.md R142). -/
theorem addWithCarry_limb_carry (c a : BitVec 32) (cf : BitVec 1) :
    (sumLimb (addWithCarry c a cf)).toNat + 2 ^ 32 * (sumCarry (addWithCarry c a cf)).toNat =
      c.toNat + a.toNat + cf.toNat := by
  have hc := c.isLt
  have ha := a.isLt
  have hf := cf.isLt
  simp only [sumLimb, sumCarry, addWithCarry, BitVec.extractLsb'_toNat, BitVec.toNat_add, BitVec.toNat_setWidth,
    Nat.shiftRight_eq_div_pow]
  omega

theorem toNat_eq_two_limbs (n : Word) :
    n.toNat = (n.extractLsb' 0 32).toNat + 2 ^ 32 * (n.extractLsb' 32 32).toNat := by
  simp only [BitVec.extractLsb'_toNat, Nat.shiftRight_eq_div_pow]
  omega

theorem toNat_eq_four_limbs (c : BitVec 128) :
    c.toNat = (c.extractLsb' 0 32).toNat + 2 ^ 32 * (c.extractLsb' 32 32).toNat +
      2 ^ 64 * (c.extractLsb' 64 32).toNat + 2 ^ 96 * (c.extractLsb' 96 32).toNat := by
  simp only [BitVec.extractLsb'_toNat, Nat.shiftRight_eq_div_pow]
  omega

/-- The four limbs of the chain add up to the sum, but for the last carry, which is dropped (42_counter.md R142). -/
theorem parInc_eq_add (c : BitVec 128) (n : Word) : parInc c n = c + n.setWidth 128 := by
  have hzero : (0 : BitVec 32).toNat = 0 := rfl
  have hnocarry : (0 : BitVec 1).toNat = 0 := rfl
  apply BitVec.eq_of_toNat_eq
  rw [BitVec.toNat_add, BitVec.toNat_setWidth, toNat_eq_four_limbs c, toNat_eq_two_limbs n]
  simp only [parInc, toNat_counter, toNat_joinLimbs]
  have h0 := addWithCarry_limb_carry (c.extractLsb' 0 32) (n.extractLsb' 0 32) 0
  generalize addWithCarry (c.extractLsb' 0 32) (n.extractLsb' 0 32) 0 = s0 at h0 ⊢
  have h1 := addWithCarry_limb_carry (c.extractLsb' 32 32) (n.extractLsb' 32 32) (sumCarry s0)
  generalize addWithCarry (c.extractLsb' 32 32) (n.extractLsb' 32 32) (sumCarry s0) = s1 at h1 ⊢
  have h2 := addWithCarry_limb_carry (c.extractLsb' 64 32) 0 (sumCarry s1)
  generalize addWithCarry (c.extractLsb' 64 32) 0 (sumCarry s1) = s2 at h2 ⊢
  have h3 := addWithCarry_limb_carry (c.extractLsb' 96 32) 0 (sumCarry s2)
  omega

/-- Both strategies are the sum modulo 2^128 (42_counter.md R144). -/
theorem inc_eq_add (strat : Strategy) (c : BitVec 128) (n : Word) : inc strat c n = c + n.setWidth 128 := by
  cases strat with
  | sequential => exact seqInc_eq_add c n
  | parallel => exact parInc_eq_add c n

end Sys2Proof.Machine
end

section
/-! PROOFS. An open session keeps the bytes not yet compressed in its buffer and the number of the others in its counter, so
closing it ends in the block-by-block hash of all its bytes (41_session.md R125 to R129). -/

namespace Sys2Proof.Machine

/-! ### The blocks of the hash -/

/-- The last block, full or not (41_session.md R127). -/
theorem hashChain_last {bytes : List Byte} (fuel : Nat) (h : Vector Word 8) (done : Nat) (hlen : bytes.length ≤ 128) :
    hashChain fuel h done bytes =
      compressF h (messageBlock (padBlock bytes)) (BitVec.ofNat 128 (done + bytes.length)) true := by
  cases fuel with
  | zero => rfl
  | succ fuel => rw [hashChain, if_pos hlen]

/-- A full block that at least one more byte follows (41_session.md R125; 90_conflicts.md C2). -/
theorem hashChain_append {block rest : List Byte} {fuel : Nat} (h : Vector Word 8) (done : Nat)
    (hlen : block.length = 128) (hne : rest ≠ []) :
    hashChain (fuel + 1) h done (block ++ rest) =
      hashChain fuel (compressF h (messageBlock (padBlock block)) (BitVec.ofNat 128 (done + 128)) false)
        (done + 128) rest := by
  have hlong : ¬ (block ++ rest).length ≤ Config.blockBytes := by
    have hpos := List.length_pos_iff.mpr hne
    rw [List.length_append, hlen, Config.blockBytes]
    omega
  rw [hashChain, if_neg hlong, List.take_left' hlen, List.drop_left' hlen]

@[simp] theorem getElem_padBlock (bytes : List Byte) {j : Nat} (hj : j < 128) :
    (padBlock bytes)[j] = bytes.getD j 0 := Vector.getElem_ofFn hj

/-! ### What an open session holds -/

/-- The session has compressed `done` bytes and keeps `held` at the start of its buffer; what lies past FILL is stale
(10_state.md R30; 41_session.md R125). -/
structure State.Holds (s : State) (done : Nat) (held : List Byte) : Prop where
  counter : s.t = BitVec.ofNat 128 done
  fill : s.fill = BitVec.ofNat 8 held.length
  length_le : held.length ≤ 128
  bytes : ∀ j : Fin 128, j.val < held.length → s.buf[j] = (padBlock held)[j]

section
variable {s : State} {done : Nat} {held : List Byte}

theorem State.Holds.fill_toNat (h : s.Holds done held) :
    s.fill.toNat = held.length := by
  have hlen := h.length_le
  rw [h.fill, BitVec.toNat_ofNat]
  omega

theorem State.Holds.fill_setWidth (h : s.Holds done held) :
    (s.fill.setWidth 64).setWidth 128 = BitVec.ofNat 128 held.length := by
  have hlen := h.length_le
  apply BitVec.eq_of_toNat_eq
  simp only [BitVec.toNat_setWidth, BitVec.toNat_ofNat, h.fill_toNat]
  omega

/-- Clearing the stale bytes leaves the padded block of the held ones (41_session.md R127). -/
theorem State.Holds.zeroFrom (h : s.Holds done held) :
    zeroFrom s.fill.toNat s.buf = padBlock held := by
  ext j hj : 1
  simp only [Machine.zeroFrom, Vector.getElem_ofFn, h.fill_toNat]
  split
  next hlt => exact h.bytes ⟨j, hj⟩ hlt
  next hge => rw [getElem_padBlock, List.getD_eq_default _ _ (Nat.not_lt.mp hge)]

/-- A full buffer has no stale bytes. -/
theorem State.Holds.buf_eq (h : s.Holds done held)
    (hfull : held.length = 128) : s.buf = padBlock held := by
  ext j hj : 1
  exact h.bytes ⟨j, hj⟩ (lt_of_lt_of_eq hj hfull.symm)

theorem State.Holds.appendByte (h : s.Holds done held) (x : Byte)
    (hroom : held.length < 128) : (s.appendByte x).Holds done (held ++ [x]) where
  counter := h.counter
  fill := by
    rw [appendByte_fill, h.fill, List.length_append, List.length_singleton, BitVec.ofNat_add]
    rfl
  length_le := by
    rw [List.length_append, List.length_singleton]
    omega
  bytes := by
    intro j hj
    rw [List.length_append, List.length_singleton] at hj
    simp only [appendByte_buf, h.fill_toNat, getElem_padBlock, Fin.getElem_fin, Vector.getElem_setIfInBounds]
    split
    next heq => simp [← heq]
    next hne =>
      have hlt : j.val < held.length := by omega
      rw [List.getD_append _ _ _ _ hlt, ← getElem_padBlock held j.isLt]
      exact h.bytes j hlt

/-- What AbsorbByte does first when the buffer is full (41_session.md R125). -/
def State.flush (s : State) : State := { s.compress 128 false with fill := 0 }

theorem absorbByte_full {s : State} (x : Byte) (h : s.fill = 128) : s.absorbByte x = s.flush.appendByte x := if_pos h

theorem absorbByte_room {s : State} (x : Byte) (h : s.fill ≠ 128) : s.absorbByte x = s.appendByte x := if_neg h

theorem State.Holds.flush (h : s.Holds done held) :
    s.flush.Holds (done + 128) [] where
  counter := by
    have ht : s.flush.t = inc s.strat s.t 128 := rfl
    rw [ht, inc_eq_add, h.counter, BitVec.ofNat_add]
    rfl
  fill := rfl
  length_le := Nat.zero_le _
  bytes _ hj := absurd hj (Nat.not_lt_zero _)

theorem State.Holds.flush_h (h : s.Holds done held)
    (hfull : held.length = 128) :
    s.flush.h = compressF s.h (messageBlock (padBlock held)) (BitVec.ofNat 128 (done + 128)) false := by
  rw [← h.buf_eq hfull, ← h.flush.counter]
  rfl

/-- FINAL compresses the held bytes as the last block (41_session.md R127). -/
theorem State.Holds.closeSession_h (h : s.Holds done held) :
    s.closeSession.h =
      compressF s.h (messageBlock (padBlock held)) (BitVec.ofNat 128 (done + held.length)) true := by
  have ht : s.closeSession.t = BitVec.ofNat 128 (done + held.length) := by
    rw [closeSession_t, inc_eq_add, h.counter, h.fill_setWidth, BitVec.ofNat_add]
  rw [Machine.closeSession_h, h.zeroFrom, ht]

end

/-- Absorbing the rest of the bytes and closing the session ends in the hash of the held bytes and the rest, whichever
counter strategy the session has. -/
theorem absorbBytes_closeSession_h (msg : List Byte) {s : State} {done : Nat} {held : List Byte} {fuel : Nat}
    (h : s.Holds done held) (hfuel : held.length + msg.length ≤ fuel) :
    (s.absorbBytes msg).closeSession.h = hashChain fuel s.h done (held ++ msg) := by
  induction msg generalizing s done held fuel with
  | nil => rw [absorbBytes_nil, List.append_nil, h.closeSession_h, hashChain_last _ _ _ h.length_le]
  | cons x msg ih =>
    rw [List.length_cons] at hfuel
    rw [absorbBytes_cons]
    by_cases hfull : held.length = 128
    · have hfill : s.fill = 128 := by
        rw [h.fill, hfull]
        rfl
      have hnext : s.flush.appendByte x |>.Holds (done + 128) [x] := h.flush.appendByte x (by decide)
      obtain ⟨fuel, rfl⟩ : ∃ n, fuel = n + 1 := ⟨fuel - 1, by omega⟩
      have hfuel' : [x].length + msg.length ≤ fuel := by
        rw [List.length_singleton]
        omega
      rw [absorbByte_full x hfill, ih hnext hfuel', hashChain_append _ _ hfull (List.cons_ne_nil x msg),
        ← h.flush_h hfull]
      rfl
    · have hroom : held.length < 128 := Nat.lt_of_le_of_ne h.length_le hfull
      have hfill : s.fill ≠ 128 := fun he => hfull (by rw [← h.fill_toNat, he]; rfl)
      have hfuel' : (held ++ [x]).length + msg.length ≤ fuel := by
        rw [List.length_append, List.length_singleton]
        omega
      rw [absorbByte_room x hfill, ih (h.appendByte x hroom) hfuel', List.append_assoc]
      rfl

end Sys2Proof.Machine
end

section
/-! PROOFS. Host programs: a line is one step, whatever lines follow it, and a program is run line by line. The lines of
HASH, one pseudo-instruction at a time (30_encoding.md R87, R88). -/

namespace Sys2Proof.Machine

/-! ### What no command reads -/

/-- `s` with the host's program, the last answer, DIN and ERR of `u`. -/
def State.aside (s u : State) : State :=
  { s with pending := u.pending, reply := u.reply, din := u.din, err := u.err }

theorem absorbByte_aside (s u : State) (x : Byte) : (s.aside u).absorbByte x = (s.absorbByte x).aside u := by
  by_cases hfull : s.fill = 128
  · have hfull' : (s.aside u).fill = 128 := hfull
    rw [absorbByte_full x hfull, absorbByte_full x hfull']
    rfl
  · have hroom' : (s.aside u).fill ≠ 128 := hfull
    rw [absorbByte_room x hfull, absorbByte_room x hroom']
    rfl

theorem absorbBytes_aside (s u : State) (l : List Byte) : (s.aside u).absorbBytes l = (s.absorbBytes l).aside u := by
  induction l generalizing s with
  | nil => rfl
  | cons x l ih => rw [absorbBytes_cons, absorbByte_aside, ih, absorbBytes_cons]

/-- The host goes on with `inputs`. -/
def State.setPending (inputs : List Input) (s : State) : State := { s with pending := inputs }

theorem absorbBytes_setPending (inputs : List Input) (s : State) (l : List Byte) :
    (s.setPending inputs).absorbBytes l = (s.absorbBytes l).setPending inputs := by
  have h : s.setPending inputs = s.aside (s.setPending inputs) := rfl
  rw [h, absorbBytes_aside, absorbBytes_frame]
  rfl

/-- No command looks at what the host does next. -/
theorem exec_setPending (i : Instr) (inputs : List Input) (s : State) :
    exec i (s.setPending inputs) = onNext (State.setPending inputs) (exec i s) := by
  cases i with
  | init outlen keylen strat =>
    rw [exec, exec, execInit, execInit, apply_ite (onNext (State.setPending inputs))]
    rfl
  | absorb len =>
    rw [exec, exec, execAbsorb, execAbsorb, apply_ite (onNext (State.setPending inputs)), absorbBytes_setPending]
    rfl
  | final =>
    rw [exec, exec, execFinal, execFinal, apply_ite (onNext (State.setPending inputs))]
    rfl
  | cmp => rfl
  | cmpd =>
    rw [exec, exec, execCmpd, execCmpd, apply_ite (onNext (State.setPending inputs))]
    rfl
  | endian form => cases form <;> rfl
  | ctrinc variant => rfl

/-! ### Running a program line by line -/

/-- The line takes `s` to `t`, whatever lines follow; if it is a command, with ERR = OK. -/
def Line.Takes (l : Line) (s t : State) : Prop :=
  (∀ q, step (s.load (l :: q)) = .next (t.load q)) ∧ ∀ i, l = .command i → t.err = .ok

/-- The lines take `s` to `t`, each command with ERR = OK. -/
inductive Runs : List Line → State → State → Prop where
  | nil (s : State) : Runs [] s s
  | cons {l : Line} {p : List Line} {s t u : State} : l.Takes s t → Runs p t u → Runs (l :: p) s u

theorem Line.Takes.runs {l : Line} {s t : State} (h : l.Takes s t) : Runs [l] s t := .cons h (.nil t)

theorem Runs.append {p q : List Line} {s t u : State} (hp : Runs p s t) (hq : Runs q t u) : Runs (p ++ q) s u := by
  induction hp with
  | nil => exact hq
  | cons hl _ ih => exact .cons hl (ih hq)

theorem Runs.runProgram {p : List Line} {s t : State} (h : Runs p s t) : s.runProgram p = .next (t.load []) := by
  induction h with
  | nil => rfl
  | cons hl _ ih => exact (run_succ_of_step (hl.1 _)).trans ih

/-- After each line that is a command ERR is OK. -/
theorem Runs.err_ok {p : List Line} {s t : State} (h : Runs p s t) {n : Nat} (hn : n < p.length) :
    ∃ u, Host.Core.run core (n + 1) (s.load p) = .next u ∧ ∀ i, p[n]? = some (.command i) → u.err = .ok := by
  induction h generalizing n with
  | nil => cases hn
  | @cons l p s t u hl _ ih =>
    have hstep := hl.1 p
    cases n with
    | zero =>
      refine ⟨t.load p, run_succ_of_step hstep, fun i hi => hl.2 i ?_⟩
      simpa using hi
    | succ n =>
      obtain ⟨v, hv, hok⟩ := ih (Nat.lt_of_succ_lt_succ hn)
      exact ⟨v, (run_succ_of_step hstep).trans hv, hok⟩

theorem takes_wr (s : State) {r : Reg} (v : Word) (h : r ≠ .cmd) :
    (Line.wr r v).Takes s ((s.writeReg r v).answer .written) := by
  refine ⟨fun q => (step_write_register s v (programInputs s.base s.owner q) h).trans ?_, nofun⟩
  cases r <;> rfl

/-- A command that succeeds in `s` does so as a line of a program. -/
theorem takes_command {i : Instr} {s t : State} (hwf : i.WellFormed) (hx : exec i s = .next t) (hok : t.err = .ok) :
    (Line.command i).Takes s (t.answer .written) := by
  refine ⟨fun q => ?_, fun _ _ => hok⟩
  obtain ⟨hbase, howner, -, -⟩ := exec_host hx
  have hstep := step_command s (encode i) (programInputs s.base s.owner q)
  have hpending := exec_setPending i (programInputs s.base s.owner q) s
  rw [performCommand_ok (decode_encode hwf)] at hstep
  rw [hx, onNext_next] at hpending
  refine hstep.trans ((congrArg _ hpending).trans ?_)
  rw [← hbase, ← howner]
  rfl

/-! ### SETKEY -/

/-- Byte `k` of a packed word is byte `k` of the list, or 0 past its end (30_encoding.md R88). -/
theorem byteLane_packWord (bytes : List Byte) {k : Nat} (hk : k < 8) :
    byteLane (packWord bytes) k = bytes.getD k 0 := by
  have h := byteLane_le64 (Vector.ofFn fun k : Fin 8 => bytes.getD k.val 0) ⟨k, hk⟩
  simpa [packWord] using h

/-- Writing some of the KEY registers, in any order, gives each its word and leaves the others and SSTATE. -/
theorem runs_writeKeys (f : Fin 8 → Word) (l : List (Fin 8)) (s : State) :
    ∃ t, Runs (l.map fun i => .wr (.key i) (f i)) s t ∧ t.sstate = s.sstate ∧
      ∀ i, t.key[i] = if i ∈ l then f i else s.key[i] := by
  induction l generalizing s with
  | nil => exact ⟨s, .nil s, rfl, fun i => by simp⟩
  | cons j l ih =>
    obtain ⟨t, hrun, hsstate, hkey⟩ := ih ((s.writeReg (.key j) (f j)).answer .written)
    refine ⟨t, .cons (takes_wr s (f j) nofun) hrun, hsstate, fun i => ?_⟩
    have hj : ((s.writeReg (.key j) (f j)).answer .written).key[i] = if i = j then f j else s.key[i] := by
      simpa [State.readReg] using readReg_writeReg s (.key i) (f j) (r := .key j) rfl
    rw [hkey, hj]
    by_cases hij : i = j <;> simp [hij]

theorem runs_setKey (key : List Byte) (s : State) :
    ∃ t, Runs (setKey key) s t ∧ t.sstate = s.sstate ∧ ∀ i : Fin 8, t.key[i] = packWord (key.drop (8 * i.val)) := by
  obtain ⟨t, hrun, hsstate, hkey⟩ := runs_writeKeys (fun i => packWord (key.drop (8 * i.val))) (List.finRange 8) s
  exact ⟨t, hrun, hsstate, fun i => by rw [hkey, if_pos (List.mem_finRange i)]⟩

/-- The key block INIT reads from the KEY registers is the padded key (10_state.md R27; 41_session.md R122). -/
theorem keyBlock_eq_padBlock {s : State} {key : List Byte} (hlen : key.length ≤ 64)
    (hkey : ∀ i : Fin 8, s.key[i] = packWord (key.drop (8 * i.val))) : s.keyBlock key.length = padBlock key := by
  ext j hj : 1
  rw [State.keyBlock, Vector.getElem_ofFn, getElem_padBlock]
  split
  next hin =>
    obtain ⟨-, h64⟩ := hin
    have hj64 : j < 64 := h64
    have hword : s.key[j / 8] = packWord (key.drop (8 * (j / 8))) := hkey ⟨j / 8, by omega⟩
    simp only [State.keyByte, hword]
    rw [byteLane_packWord _ (Nat.mod_lt _ (by decide)), List.getD_eq_getElem?_getD, List.getElem?_drop, Nat.div_add_mod,
      List.getD_eq_getElem?_getD]
  next hout =>
    have hpast : key.length ≤ j := by
      by_contra hlt
      exact hout ⟨Nat.lt_of_not_le hlt, by dsimp only; omega⟩
    exact (List.getD_eq_default _ _ hpast).symm

/-! ### ABSBYTES -/

/-- `ABS8 v, n` absorbs the first `n` lanes of `v` (30_encoding.md R88; 41_session.md R124). -/
theorem runs_abs8 {s : State} (v : Word) {n : BitVec 4} (hn : n.toNat ≤ 8) (hopen : s.sstate = .absorbing) :
    ∃ t, Runs (abs8 v n) s t ∧ t = (s.absorbBytes ((List.range n.toNat).map (byteLane v))).aside t := by
  let u := (s.writeReg .din v).answer .written
  have habsorb := exec_absorb u n hopen
  refine ⟨_, .cons (takes_wr s v nofun) (takes_command ((wellFormed_absorb n).mpr hn) habsorb rfl).runs, ?_⟩
  have hbytes : u.dinBytes n.toNat = (List.range n.toNat).map (byteLane v) := rfl
  have hu : u = s.aside u := rfl
  rw [hbytes, hu, absorbBytes_aside]
  rfl

theorem lanes_packWord (bytes : List Byte) :
    (List.range (min 8 bytes.length)).map (byteLane (packWord bytes)) = bytes.take 8 := by
  apply List.ext_getElem
  · simp
  · intro k hk _
    have hlt : k < 8 ∧ k < bytes.length := by simpa using hk
    rw [List.getElem_map, List.getElem_range, byteLane_packWord _ hlt.1, List.getElem_take,
      List.getD_eq_getElem _ _ hlt.2]

theorem runs_absChunks (chunks : Nat) {bytes : List Byte} {s : State} (hlen : bytes.length ≤ chunks)
    (hopen : s.sstate = .absorbing) :
    ∃ t, Runs (absChunks chunks bytes) s t ∧ t = (s.absorbBytes bytes).aside t := by
  induction chunks generalizing bytes s with
  | zero =>
    obtain rfl := List.length_eq_zero_iff.mp (Nat.le_zero.mp hlen)
    exact ⟨s, .nil s, rfl⟩
  | succ chunks ih =>
    cases bytes with
    | nil => exact ⟨s, .nil s, rfl⟩
    | cons b rest =>
      rw [absChunks]
      generalize hbytes : b :: rest = bytes at *
      have hn : (BitVec.ofNat 4 (min 8 bytes.length)).toNat = min 8 bytes.length := by
        rw [BitVec.toNat_ofNat]
        omega
      obtain ⟨t, hrun, ht⟩ := runs_abs8 (packWord bytes) (n := BitVec.ofNat 4 (min 8 bytes.length)) (by omega) hopen
      rw [hn, lanes_packWord] at ht
      have hopen' : t.sstate = .absorbing := by rw [ht]; exact (absorbBytes_sstate _ _).trans hopen
      obtain ⟨u, hrun', hu⟩ := ih (bytes := bytes.drop 8) (s := t) (by rw [List.length_drop]; omega) hopen'
      refine ⟨u, hrun.append hrun', ?_⟩
      have hall : s.absorbBytes bytes = (s.absorbBytes (bytes.take 8)).absorbBytes (bytes.drop 8) := by
        rw [← absorbBytes_append, List.take_append_drop]
      rw [hu, ht, absorbBytes_aside, hall]
      rfl

theorem runs_absBytes (bytes : List Byte) {s : State} (hopen : s.sstate = .absorbing) :
    ∃ t, Runs (absBytes bytes) s t ∧ t = (s.absorbBytes bytes).aside t := runs_absChunks _ le_rfl hopen

/-! ### HASH -/

/-- The bytes that the key puts in front of the message: none, or the padded key block (41_session.md R123). -/
def keyBytes (key : List Byte) : List Byte := if key = [] then [] else (padBlock key).toList

theorem sessionBytes_eq (key msg : List Byte) : sessionBytes key msg = keyBytes key ++ msg := rfl

theorem toNat_keylen {key : List Byte} (h : key.length ≤ 64) : (BitVec.ofNat 7 key.length).toNat = key.length := by
  rw [BitVec.toNat_ofNat]
  omega

theorem openSession_buf (s : State) (outlen keylen : BitVec 7) (strat : Strategy) :
    (s.openSession outlen keylen strat).buf = s.keyBlock keylen.toNat := rfl

theorem openSession_fill (s : State) (outlen keylen : BitVec 7) (strat : Strategy) :
    (s.openSession outlen keylen strat).fill = if keylen = 0 then 0 else 128 := rfl

/-- INIT leaves an empty buffer without a key, and with one a full buffer that holds the padded key (41_session.md R122). -/
theorem openSession_holds {s : State} {key : List Byte} (outlen : BitVec 7) (strat : Strategy) (hlen : key.length ≤ 64)
    (hkey : key ≠ [] → s.keyBlock key.length = padBlock key) :
    (s.openSession outlen (BitVec.ofNat 7 key.length) strat).Holds 0 (keyBytes key) := by
  by_cases hnil : key = []
  · subst hnil
    exact ⟨rfl, rfl, Nat.zero_le _, fun _ hj => absurd hj (Nat.not_lt_zero _)⟩
  · have hbuf : (s.openSession outlen (BitVec.ofNat 7 key.length) strat).buf = padBlock key := by
      rw [openSession_buf, toNat_keylen hlen, hkey hnil]
    have hne : BitVec.ofNat 7 key.length ≠ 0 := by
      intro hzero
      have hlen0 := toNat_keylen hlen
      rw [hzero] at hlen0
      exact hnil (List.length_eq_zero_iff.mp hlen0.symm)
    rw [keyBytes, if_neg hnil]
    refine ⟨rfl, ?fill, by simp, ?bytes⟩
    case fill =>
      rw [openSession_fill, if_neg hne, Vector.length_toList]
      rfl
    case bytes =>
      intro j _
      simp [hbuf]

/-- SETKEY, which a HASH without a key leaves out, makes the key block the padded key (30_encoding.md R88). -/
theorem runs_keyLines {s : State} {key : List Byte} (hlen : key.length ≤ 64) :
    ∃ t, Runs (if key = [] then [] else setKey key) s t ∧ t.sstate = s.sstate ∧
      (key ≠ [] → t.keyBlock key.length = padBlock key) := by
  split
  next hnil => exact ⟨s, .nil s, rfl, fun hne => absurd hnil hne⟩
  next =>
    obtain ⟨t, hrun, hsstate, hword⟩ := runs_setKey key s
    exact ⟨t, hrun, hsstate, fun _ => keyBlock_eq_padBlock hlen hword⟩

/-- The lines INIT, ABSBYTES and FINAL of a HASH, from a state whose key block is the padded key. -/
theorem runs_session {s : State} (msg : List Byte) {key : List Byte} {outlen : BitVec 7} (strat : Strategy)
    (hclosed : s.sstate ≠ .absorbing) (hlen : key.length ≤ 64) (hout : 1 ≤ outlen.toNat ∧ outlen.toNat ≤ 64)
    (hkey : key ≠ [] → s.keyBlock key.length = padBlock key) :
    ∃ t, Runs (.command (.init outlen (BitVec.ofNat 7 key.length) strat) :: absBytes msg ++ [.command .final]) s t ∧
      t.sstate = .finalized ∧ t.err = .ok ∧ t.h = sessionHash outlen key msg ∧
      t.dout = maskedDigest (sessionHash outlen key msg) outlen.toNat := by
  have hwf : (Instr.init outlen (BitVec.ofNat 7 key.length) strat).WellFormed := by
    rw [wellFormed_init, toNat_keylen hlen]
    exact ⟨hout, hlen⟩
  let u := s.openSession outlen (BitVec.ofNat 7 key.length) strat
  have hinit := takes_command hwf (exec_init s outlen (BitVec.ofNat 7 key.length) strat hclosed) rfl
  obtain ⟨v, habsorb, hv⟩ := runs_absBytes msg (s := (u.setErr .ok).answer .written) rfl
  have hopened : (u.setErr .ok).answer .written = u.aside ((u.setErr .ok).answer .written) := rfl
  have hv' : v = (u.absorbBytes msg).aside v := by
    rw [hv, hopened, absorbBytes_aside]
    rfl
  have hopen : v.sstate = .absorbing := by
    rw [hv']
    exact absorbBytes_sstate u msg
  have hh : v.closeSession.h = sessionHash outlen key msg := by
    rw [hv', sessionHash, sessionBytes_eq]
    exact absorbBytes_closeSession_h msg (openSession_holds outlen strat hlen hkey) (List.length_append ▸ le_rfl)
  have houtlen : v.outlen = outlen := by
    rw [hv']
    exact absorbBytes_outlen u msg
  have hfinal := takes_command (i := .final) rfl (exec_final v hopen) rfl
  refine ⟨_, (Runs.cons hinit habsorb).append hfinal.runs, rfl, rfl, hh, ?_⟩
  rw [← hh, ← houtlen]
  exact closeSession_dout v

theorem runs_hashProgram {s : State} (msg : List Byte) {key : List Byte} {outlen : BitVec 7} (strat : Strategy)
    (hclosed : s.sstate ≠ .absorbing) (hlen : key.length ≤ 64) (hout : 1 ≤ outlen.toNat ∧ outlen.toNat ≤ 64) :
    ∃ t, Runs (hashProgram msg outlen key strat) s t ∧ t.sstate = .finalized ∧ t.err = .ok ∧
      t.h = sessionHash outlen key msg ∧ t.dout = maskedDigest (sessionHash outlen key msg) outlen.toNat := by
  obtain ⟨u, hset, hsstate, hkey⟩ := runs_keyLines hlen
  obtain ⟨t, hrun, hend⟩ := runs_session msg strat (hsstate ▸ hclosed) hlen hout hkey
  refine ⟨t, ?_, hend⟩
  rw [hashProgram, List.append_assoc]
  exact hset.append hrun

end Sys2Proof.Machine

open Sys2Proof Sys2Proof.Machine

/-- Settles O25: the lines of HASH run one after the other, SETKEY makes the key block, and the session that INIT opens
holds that block and the message until FINAL closes it. -/
theorem hashProgramComputesHash : Obligations.HashProgramComputesHash := by
  intro s msg key outlen strat hclosed hlen hpos hmax p
  obtain ⟨t, hrun, hsstate, herr, hh, hdout⟩ := runs_hashProgram msg strat hclosed hlen ⟨hpos, hmax⟩
  exact ⟨fun n hn => hrun.err_ok hn, t.load [], hrun.runProgram, hsstate, herr, rfl, hh, hdout⟩
end

section
/-! PROOFS. The compression function F (40_compression.md): the message words it reads, what G reads and writes, the order
of the operations of a round, the values of its tables, and F as a whole. -/

namespace Sys2Proof

/-! ### Little-endian words -/

/-- The low `n` bytes of a number, each at its place. -/
theorem mod_two_pow_eq_sum (x n : Nat) :
    x % 2 ^ (8 * n) = ((List.range n).map fun k => x / 2 ^ (8 * k) % 2 ^ 8 * 2 ^ (8 * k)).sum := by
  induction n with
  | zero => simp [Nat.mod_one]
  | succ n ih =>
    have hsplit := Nat.mod_pow_succ (x := x) (b := 2 ^ 8) (k := n)
    simp only [← pow_mul] at hsplit
    rw [hsplit, ih, List.range_succ, List.map_append, List.sum_append, List.map_singleton, List.sum_singleton,
      Nat.mul_comm (2 ^ (8 * n))]

/-- `LE64` is the sum of the bytes, byte `k` at `2^(8k)` (00_scope.md R8). -/
theorem toNat_le64 (b : Vector Byte 8) :
    (le64 b).toNat = ((List.finRange 8).map fun k => b[k].toNat * 2 ^ (8 * k.val)).sum := by
  have hsum := mod_two_pow_eq_sum (le64 b).toNat 8
  rw [Nat.mod_eq_of_lt (le64 b).isLt, ← List.map_coe_finRange_eq_range, List.map_map] at hsum
  rw [hsum]
  congr 2
  funext k
  rw [← byteLane_le64 b k, byteLane, BitVec.extractLsb'_toNat, Nat.shiftRight_eq_div_pow]
  rfl

end Sys2Proof

namespace Sys2Proof.Machine

theorem getElem_messageBlock (buf : Vector Byte 128) (i : Fin 16) : (messageBlock buf)[i] = bufWord buf i := by
  simp [messageBlock]

theorem toNat_bufWord (buf : Vector Byte 128) (i : Fin 16) :
    (bufWord buf i).toNat = ((List.finRange 8).map fun k => buf[8 * i.val + k.val].toNat * 2 ^ (8 * k.val)).sum := by
  simp [bufWord, toNat_le64]

/-! ### G -/

theorem rotateRight_eq_or (n : Word) {k : Nat} (hk : k < 64) : n.rotateRight k = n >>> k ||| n <<< (64 - k) := by
  rw [BitVec.rotateRight_def, Nat.mod_eq_of_lt hk]

theorem getElem_set_same {n : Nat} (bank : Vector Word n) (i : Fin n) (v : Word) : (bank.set i v)[i] = v :=
  Vector.getElem_set_self i.isLt

/-- G writes no other word than its four (40_compression.md R102). -/
theorem getElem_mixG_of_notMem (v : Vector Word 16) {a b c d i : Fin 16} (x y : Word) (hi : i ∉ [a, b, c, d]) :
    (mixG v a b c d x y)[i] = v[i] := by
  simp only [List.mem_cons, List.not_mem_nil, or_false, not_or] at hi
  obtain ⟨ha, hb, hc, hd⟩ := hi
  simp only [mixG, getElem_set_of_ne _ _ ha, getElem_set_of_ne _ _ hb, getElem_set_of_ne _ _ hc,
    getElem_set_of_ne _ _ hd]

end Sys2Proof.Machine

open Sys2Proof Sys2Proof.Machine

/-- Settles O27: each step of G writes one of its four words, and a word it reads holds what the last step that wrote it
put there. -/
theorem mixGUpdatesFourWords : Obligations.MixGUpdatesFourWords := by
  intro v a b c d x y hnodup
  have hdiff : (a ≠ b ∧ a ≠ c ∧ a ≠ d) ∧ (b ≠ c ∧ b ≠ d) ∧ c ≠ d := by simpa using hnodup
  obtain ⟨⟨hab, hac, had⟩, ⟨hbc, hbd⟩, hcd⟩ := hdiff
  refine ⟨?_, ?_, ?_, ?_, fun i hi => getElem_mixG_of_notMem v x y hi⟩ <;>
    simp only [mixG, rotateRight_eq_or, Nat.reduceLT, getElem_set_same, getElem_set_of_ne, ne_eq, not_false_eq_true,
      hab, hac, had, hbc, hbd, hcd, hab.symm, hac.symm, had.symm, hbc.symm, hbd.symm, hcd.symm]

namespace Sys2Proof.Machine

/-- What G writes depends on its own four words alone (40_compression.md R103). -/
theorem mixG_congr {u v : Vector Word 16} {a b c d : Fin 16} (x y : Word) (hnodup : [a, b, c, d].Nodup)
    (h : ∀ i ∈ [a, b, c, d], u[i] = v[i]) :
    ∀ i ∈ [a, b, c, d], (mixG u a b c d x y)[i] = (mixG v a b c d x y)[i] := by
  obtain ⟨hua, hub, huc, hud, -⟩ := mixGUpdatesFourWords u a b c d x y hnodup
  obtain ⟨hva, hvb, hvc, hvd, -⟩ := mixGUpdatesFourWords v a b c d x y hnodup
  simp only [List.forall_mem_cons, List.not_mem_nil, false_imp_iff, implies_true, and_true] at h ⊢
  obtain ⟨ha, hb, hc, hd⟩ := h
  rw [hua, hub, huc, hud, hva, hvb, hvc, hvd, ha, hb, hc, hd]
  exact ⟨rfl, rfl, rfl, rfl⟩

/-- On the words of one of two operations on disjoint words, the order of the two does not matter: the other one writes
none of these words. -/
theorem mixG_mixG_of_mem (v : Vector Word 16) {a b c d a' b' c' d' : Fin 16} (x y x' y' : Word)
    (hnodup : [a, b, c, d].Nodup) (hdisj : [a, b, c, d].Disjoint [a', b', c', d']) :
    ∀ i ∈ [a, b, c, d], (mixG (mixG v a b c d x y) a' b' c' d' x' y')[i] =
      (mixG (mixG v a' b' c' d' x' y') a b c d x y)[i] := by
  have hframe (u : Vector Word 16) : ∀ i ∈ [a, b, c, d], (mixG u a' b' c' d' x' y')[i] = u[i] :=
    fun i hi => getElem_mixG_of_notMem u x' y' fun hi' => hdisj hi hi'
  exact fun i hi => (hframe _ i hi).trans (mixG_congr x y hnodup (fun j hj => (hframe v j hj).symm) i hi)

theorem mixG_comm (v : Vector Word 16) {a b c d a' b' c' d' : Fin 16} (x y x' y' : Word)
    (hnodup : [a, b, c, d, a', b', c', d'].Nodup) :
    mixG (mixG v a b c d x y) a' b' c' d' x' y' = mixG (mixG v a' b' c' d' x' y') a b c d x y := by
  obtain ⟨hq, hq', hdisj⟩ := List.nodup_append'.mp (show ([a, b, c, d] ++ [a', b', c', d']).Nodup from hnodup)
  refine Vector.ext fun k hk => ?_
  let i : Fin 16 := ⟨k, hk⟩
  by_cases hi : i ∈ [a, b, c, d]
  · exact mixG_mixG_of_mem v x y x' y' hq hdisj i hi
  by_cases hi' : i ∈ [a', b', c', d']
  · exact (mixG_mixG_of_mem v x' y' x y hq' hdisj.symm i hi').symm
  · calc (mixG (mixG v a b c d x y) a' b' c' d' x' y')[i]
      _ = (mixG v a b c d x y)[i] := getElem_mixG_of_notMem _ x' y' hi'
      _ = v[i] := getElem_mixG_of_notMem v x y hi
      _ = (mixG v a' b' c' d' x' y')[i] := (getElem_mixG_of_notMem v x' y' hi').symm
      _ = (mixG (mixG v a' b' c' d' x' y') a b c d x y)[i] := (getElem_mixG_of_notMem _ x y hi).symm

/-! ### F -/

/-- The rounds run through the rows of the schedule in order (40_compression.md R105). -/
theorem runRounds_eq_foldl (m v : Vector Word 16) :
    runRounds m v = (List.finRange 12).foldl (fun v r => mixRound m sigma[r] v) v := by
  have hrows : sigma.toList = (List.finRange 12).map fun r => sigma[r] := by decide
  rw [runRounds, hrows, List.foldl_map]

theorem initVector_chain (h : Vector Word 8) (t : BitVec 128) (last : Bool) (i : Fin 8) :
    (initVector h t last)[i.val] = h[i] := by
  have hne {j : Nat} (hj : 12 ≤ j) : j ≠ i.val := by omega
  cases last <;> simp [initVector, hne, Vector.getElem_append_left i.isLt]

/-- The upper half is IV with the counter XORed into words 12 and 13, and word 14 complemented in the last block
(40_compression.md R104). -/
theorem initVector_upper (h : Vector Word 8) (t : BitVec 128) (last : Bool) :
    let v := initVector h t last
    v[8] = iv[0] ∧ v[9] = iv[1] ∧ v[10] = iv[2] ∧ v[11] = iv[3] ∧
      v[12] = iv[4] ^^^ t.extractLsb' 0 64 ∧ v[13] = iv[5] ^^^ t.extractLsb' 64 64 ∧
      v[14] = (if last then ~~~iv[6] else iv[6]) ∧ v[15] = iv[7] := by
  have hiv {j : Nat} (hj : 8 ≤ j) (hlt : j < 16) : (h ++ iv)[j] = iv[j - 8] := Vector.getElem_append_right hlt hj
  cases last <;> simp [initVector, hiv]

theorem getElem_compressF (h : Vector Word 8) (m : Vector Word 16) (t : BitVec 128) (last : Bool) (i : Fin 8) :
    (compressF h m t last)[i] = h[i] ^^^ (runRounds m (initVector h t last))[i.val] ^^^
      (runRounds m (initVector h t last))[i.val + 8] := by
  simp [compressF]

end Sys2Proof.Machine

/-- Settles O26: `LE64` is the sum of its bytes, and BUFi reads the message word. -/
theorem messageWordsLittleEndian : Obligations.MessageWordsLittleEndian :=
  ⟨fun buf i => by rw [getElem_messageBlock, toNat_bufWord], readReg_buf⟩

/-- Settles O28: the eight operations are the model's own, in its order; operations on disjoint words commute because
neither reads or writes a word of the other. -/
theorem roundMixesColumnsThenDiagonals : Obligations.RoundMixesColumnsThenDiagonals :=
  ⟨fun _ _ _ => rfl, fun v _ _ _ _ _ _ _ _ x y x' y' hnodup => mixG_comm v x y x' y' hnodup⟩

/-- Settles O31: the working vector is `initVector`, and `runRounds` takes the rows of the schedule in order. -/
theorem compressionFunction : Obligations.CompressionFunction := by
  intro h m t last
  obtain ⟨h8, h9, h10, h11, h12, h13, h14, h15⟩ := initVector_upper h t last
  refine ⟨initVector h t last, initVector_chain h t last, h8, h9, h10, h11, h12, h13, h14, h15, fun i => ?_⟩
  rw [getElem_compressF, runRounds_eq_foldl]

/-- Settles O29: the tables are the model's constants. -/
theorem constantTables : Obligations.ConstantTables := ⟨rfl, rfl⟩

/-- Settles O30, row by row. -/
theorem scheduleRowsArePermutations : Obligations.ScheduleRowsArePermutations := ⟨by decide, rfl, rfl⟩
end

section
/-! PROOFS. The session counter and CCOUNT count the same blocks: INIT starts both at zero, AbsorbByte advances both or
neither, and FINAL adds the bytes of the last block and one compression (41_session.md R125, R127, R129). -/

namespace Sys2Proof.Machine

/-! ### The counter of whole blocks -/

/-- The counter stands at `n` blocks, and CCOUNT at `n` compressions. -/
def State.WholeBlocks (s : State) (n : Nat) : Prop :=
  s.t = BitVec.ofNat 128 (128 * n) ∧ s.ccount = BitVec.ofNat 64 n

/-- That a counter is a whole number of blocks, and a count `k` more than that number, does not depend on the counter's
wrap at 2^128 (notes/assumptions/17.md). -/
theorem exists_blocks_iff (t : BitVec 128) (count : Word) (k : Nat) :
    (∃ n, t = BitVec.ofNat 128 (128 * n) ∧ count = BitVec.ofNat 64 (n + k)) ↔
      t.toNat % 128 = 0 ∧ count = BitVec.ofNat 64 (t.toNat / 128 + k) := by
  constructor
  · rintro ⟨n, rfl, rfl⟩
    rw [BitVec.toNat_ofNat]
    refine ⟨by omega, BitVec.eq_of_toNat_eq ?_⟩
    rw [BitVec.toNat_ofNat, BitVec.toNat_ofNat]
    omega
  · rintro ⟨hmod, hcount⟩
    refine ⟨t.toNat / 128, BitVec.eq_of_toNat_eq ?_, hcount⟩
    have hlt := t.isLt
    rw [BitVec.toNat_ofNat]
    omega

theorem countInv_of_init {s : State} (h : s.sstate = .init) : CountInv s := by
  rw [CountInv, h]
  trivial

theorem countInv_absorbing_iff {s : State} (h : s.sstate = .absorbing) : CountInv s ↔ ∃ n, s.WholeBlocks n := by
  rw [CountInv, h]
  exact (exists_blocks_iff s.t s.ccount 0).symm

/-- FINAL's own bytes and its one compression are left out of the whole blocks (41_session.md R127). -/
theorem countInv_finalized_iff {s : State} (h : s.sstate = .finalized) :
    CountInv s ↔ ∃ n, s.t - s.fill.setWidth 128 = BitVec.ofNat 128 (128 * n) ∧ s.ccount = BitVec.ofNat 64 (n + 1) := by
  rw [CountInv, h]
  exact (exists_blocks_iff (s.t - s.fill.setWidth 128) s.ccount 1).symm

/-! ### The session's operations -/

theorem openSession_wholeBlocks (s : State) (outlen keylen : BitVec 7) (strat : Strategy) :
    (s.openSession outlen keylen strat).WholeBlocks 0 := ⟨rfl, rfl⟩

theorem State.WholeBlocks.flush {s : State} {n : Nat} (h : s.WholeBlocks n) : s.flush.WholeBlocks (n + 1) := by
  obtain ⟨ht, hcount⟩ := h
  have hflush : s.flush.t = inc s.strat s.t 128 ∧ s.flush.ccount = s.ccount + 1 := ⟨rfl, rfl⟩
  rw [State.WholeBlocks, hflush.1, hflush.2, inc_eq_add, ht, hcount, Nat.mul_succ, BitVec.ofNat_add, BitVec.ofNat_add]
  exact ⟨rfl, rfl⟩

/-- AbsorbByte counts a block exactly when it found the buffer full (41_session.md R125). -/
theorem State.WholeBlocks.absorbByte {s : State} {n : Nat} (h : s.WholeBlocks n) (x : Byte) :
    (s.absorbByte x).WholeBlocks (if s.fill = 128 then n + 1 else n) := by
  split
  next hfull =>
    rw [absorbByte_full x hfull]
    exact h.flush
  next hroom =>
    rw [absorbByte_room x hroom]
    exact h

theorem State.WholeBlocks.absorbBytes {s : State} {n : Nat} (h : s.WholeBlocks n) (l : List Byte) :
    ∃ m, (s.absorbBytes l).WholeBlocks m := by
  induction l generalizing s n with
  | nil => exact ⟨n, h⟩
  | cons x l ih => exact ih (h.absorbByte x)

theorem closeSession_t_eq_add (s : State) : s.closeSession.t = s.t + s.fill.setWidth 128 := by
  have hwidth : (s.fill.setWidth 64).setWidth 128 = s.fill.setWidth 128 := by
    apply BitVec.eq_of_toNat_eq
    simp only [BitVec.toNat_setWidth]
    omega
  rw [closeSession_t, inc_eq_add, hwidth]

/-! ### The agreement, kept by every step -/

/-- What the agreement of the counter and CCOUNT speaks of. -/
def State.countPart (s : State) : SState × BitVec 128 × BitVec 8 × Word := (s.sstate, s.t, s.fill, s.ccount)

theorem CountInv.of_countPart_eq {s t : State} (hs : CountInv s) (h : t.countPart = s.countPart) : CountInv t := by
  obtain ⟨hsstate, ht, hfill, hcount⟩ : t.sstate = s.sstate ∧ t.t = s.t ∧ t.fill = s.fill ∧ t.ccount = s.ccount := by
    simpa [State.countPart] using h
  rwa [CountInv, hsstate, ht, hfill, hcount]

theorem writeReg_countPart (s : State) (r : Reg) (v : Word) : (s.writeReg r v).countPart = s.countPart := by
  cases r <;> rfl

theorem CountInv.absorbBytes {s : State} (hs : CountInv s) (hopen : s.sstate = .absorbing) (l : List Byte) :
    CountInv (s.absorbBytes l) := by
  obtain ⟨n, hn⟩ := (countInv_absorbing_iff hopen).mp hs
  exact (countInv_absorbing_iff ((absorbBytes_sstate s l).trans hopen)).mpr (hn.absorbBytes l)

theorem CountInv.closeSession {s : State} (hs : CountInv s) (hopen : s.sstate = .absorbing) :
    CountInv s.closeSession := by
  obtain ⟨n, ht, hcount⟩ := (countInv_absorbing_iff hopen).mp hs
  refine (countInv_finalized_iff (closeSession_sstate s)).mpr ⟨n, ?_, ?_⟩
  · rw [closeSession_t_eq_add, closeSession_fill, BitVec.add_sub_cancel, ht]
  · rw [closeSession_ccount, hcount, BitVec.ofNat_add]
    rfl

theorem CountInv.exec {s t : State} {i : Instr} (hs : CountInv s) (h : exec i s = .next t) : CountInv t := by
  rcases exec_cases h with h | ⟨outlen, keylen, strat, -, -, h⟩ | ⟨len, -, hopen, h⟩ | ⟨-, hopen, h⟩ | ⟨-, h⟩ |
    ⟨-, -, h⟩ | ⟨-, h⟩ | ⟨-, h⟩ | ⟨v, -, h⟩ <;> cases h
  case inr.inl =>
    exact (countInv_absorbing_iff rfl).mpr ⟨0, openSession_wholeBlocks s outlen keylen strat⟩
  case inr.inr.inl => exact (hs.absorbBytes hopen _).of_countPart_eq rfl
  case inr.inr.inr.inl => exact (hs.closeSession hopen).of_countPart_eq rfl
  all_goals exact hs.of_countPart_eq rfl

theorem CountInv.step {s t : State} (hs : CountInv s) (h : step s = .next t) : CountInv t := by
  rcases step_cases h with ⟨-, rfl⟩ | ⟨-, rest, -, rfl⟩ | ⟨off, rest, -, -, -, rfl⟩ | ⟨off, v, rest, -, -, -, -, rfl⟩ |
    ⟨r, v, rest, -, -, rfl⟩ | ⟨w, rest, i, u, -, -, hx, rfl⟩ | ⟨w, rest, -, -, rfl⟩
  case inr.inl => exact countInv_of_init rfl
  case inr.inr.inr.inr.inl => exact hs.of_countPart_eq (writeReg_countPart s r v)
  case inr.inr.inr.inr.inr.inl =>
    have hrest : CountInv { s with pending := rest } := hs.of_countPart_eq rfl
    exact (hrest.exec hx).of_countPart_eq rfl
  all_goals exact hs.of_countPart_eq rfl

end Sys2Proof.Machine

open Sys2Proof Sys2Proof.Machine

/-- Settles O43: a reset is before the first session, INIT starts the counter and CCOUNT together, AbsorbByte and FINAL
advance them together, and nothing else writes either. -/
theorem countInvariantKept : Obligations.CountInvariantKept := by
  exact ⟨fun base owner => countInv_of_init rfl, fun s t hs h => hs.step h⟩

namespace Sys2Proof.Machine

/-! ### The bytes of a session -/

/-- The session has absorbed `total` bytes: whole blocks that are counted, and the last one to 128 of them, if there are
any, in the buffer (41_session.md R125). -/
def State.HasAbsorbed (s : State) (total : Nat) : Prop :=
  ∃ n, s.WholeBlocks n ∧ 128 * n + s.fill.toNat = total ∧ s.fill.toNat ≤ 128 ∧ (0 < n → 0 < s.fill.toNat)

theorem openSession_fill_eq_ite_pos (s : State) (outlen keylen : BitVec 7) (strat : Strategy) :
    (s.openSession outlen keylen strat).fill = if 0 < keylen.toNat then 128 else 0 := by
  rw [openSession_fill]
  by_cases hkey : keylen = 0
  · subst hkey
    rfl
  · have hpos : 0 < keylen.toNat := Nat.pos_of_ne_zero fun hzero => hkey (BitVec.eq_of_toNat_eq hzero)
    rw [if_neg hkey, if_pos hpos]

/-- INIT counts the padded key block as absorbed (41_session.md R123). -/
theorem openSession_hasAbsorbed (s : State) (outlen keylen : BitVec 7) (strat : Strategy) :
    (s.openSession outlen keylen strat).HasAbsorbed (if 0 < keylen.toNat then 128 else 0) := by
  refine ⟨0, openSession_wholeBlocks s outlen keylen strat, ?_⟩
  rw [openSession_fill_eq_ite_pos]
  split <;> decide

theorem State.HasAbsorbed.absorbByte {s : State} {total : Nat} (h : s.HasAbsorbed total) (x : Byte) :
    (s.absorbByte x).HasAbsorbed (total + 1) := by
  obtain ⟨n, hblocks, htotal, hle, -⟩ := h
  refine ⟨_, hblocks.absorbByte x, ?_⟩
  by_cases hfull : s.fill = 128
  · have hfill : s.fill.toNat = 128 := by
      rw [hfull]
      rfl
    have hone : (s.absorbByte x).fill.toNat = 1 := by
      rw [absorbByte_full x hfull]
      rfl
    rw [if_pos hfull, hone]
    omega
  · have hroom : s.fill.toNat ≠ 128 := fun he => hfull (BitVec.eq_of_toNat_eq he)
    have hnext : (s.absorbByte x).fill.toNat = s.fill.toNat + 1 := by
      rw [absorbByte_room x hfull, appendByte_fill, BitVec.toNat_add]
      exact Nat.mod_eq_of_lt (by omega : s.fill.toNat + 1 < 2 ^ 8)
    rw [if_neg hfull, hnext]
    omega

theorem State.HasAbsorbed.absorbBytes {s : State} {total : Nat} (h : s.HasAbsorbed total) (l : List Byte) :
    (s.absorbBytes l).HasAbsorbed (total + l.length) := by
  induction l generalizing s total with
  | nil => exact h
  | cons x l ih =>
    rw [absorbBytes_cons, List.length_cons, Nat.add_comm l.length, ← Nat.add_assoc]
    exact ih (h.absorbByte x)

/-- FINAL ends with the counter at the number of bytes, and compresses once more than there were whole blocks before the
last one (41_session.md R127, R129). -/
theorem State.HasAbsorbed.closeSession {s : State} {total : Nat} (h : s.HasAbsorbed total) :
    s.closeSession.t = BitVec.ofNat 128 total ∧
      s.closeSession.ccount = BitVec.ofNat 64 (max 1 ((total + 127) / 128)) := by
  obtain ⟨n, ⟨ht, hcount⟩, htotal, hle, hpos⟩ := h
  constructor
  · rw [closeSession_t_eq_add, ht, ← htotal, BitVec.ofNat_add, BitVec.ofNat_toNat]
  · have hn : max 1 ((total + 127) / 128) = n + 1 := by omega
    rw [closeSession_ccount, hcount, hn, BitVec.ofNat_add]
    rfl

end Sys2Proof.Machine

/-- Settles O23: the bytes absorbed are counted one by one from INIT on, and FINAL adds the last block. -/
theorem finalCounterAndCount : Obligations.FinalCounterAndCount := by
  intro s t outlen keylen strat msg _ hclosed hinit
  rw [exec_init s outlen keylen strat hclosed] at hinit
  cases hinit
  have hopened : ((s.openSession outlen keylen strat).setErr .ok).HasAbsorbed (if 0 < keylen.toNat then 128 else 0) :=
    openSession_hasAbsorbed s outlen keylen strat
  refine ⟨_, exec_final _ (absorbBytes_sstate _ msg), ?_⟩
  rw [Nat.add_comm msg.length]
  exact (hopened.absorbBytes msg).closeSession

namespace Sys2Proof.Machine

/-- A session without a key ends in the hash of the message alone. -/
theorem unkeyed_session_h {s t u : State} {outlen : BitVec 7} {strat : Strategy} {msg : List Byte} {fuel : Nat}
    (hclosed : s.sstate ≠ .absorbing) (hinit : exec (.init outlen 0 strat) s = .next t)
    (hfinal : exec .final (t.absorbBytes msg) = .next u) (hfuel : msg.length ≤ fuel) :
    u.h = hashChain fuel t.h 0 msg := by
  rw [exec_init s outlen 0 strat hclosed] at hinit
  cases hinit
  rw [exec_final _ (absorbBytes_sstate _ msg)] at hfinal
  cases hfinal
  have hempty : ((s.openSession outlen 0 strat).setErr .ok).Holds 0 [] := ⟨rfl, rfl, Nat.zero_le _, nofun⟩
  have hh := absorbBytes_closeSession_h msg hempty ((Nat.zero_add msg.length).trans_le hfuel)
  rwa [List.nil_append] at hh

/-- A block of one zero byte is the zero block (41_session.md R127). -/
theorem messageBlock_padBlock_zero : messageBlock (padBlock [0]) = Vector.replicate 16 0 := by decide

end Sys2Proof.Machine

/-- Settles O24: O23 counts the compressions, and the hash of 128 and of 129 bytes says what each of them is. -/
theorem trailingZeroByteIsHashed : Obligations.TrailingZeroByteIsHashed := by
  intro s t outlen strat msg hwf hclosed hlen hinit block zeros
  obtain ⟨u, hu, -, hucount⟩ := finalCounterAndCount s t outlen 0 strat msg hwf hclosed hinit
  obtain ⟨v, hv, -, hvcount⟩ := finalCounterAndCount s t outlen 0 strat (msg ++ [0]) hwf hclosed hinit
  refine ⟨⟨u, hu, by simpa [hlen] using hucount, ?_⟩, v, hv, by simpa [hlen] using hvcount, ?_⟩
  · rw [unkeyed_session_h hclosed hinit hu hlen.le, hashChain_last _ _ _ hlen.le, hlen]
    rfl
  · have hfuel : (msg ++ [0]).length ≤ 129 := by simp [hlen]
    rw [unkeyed_session_h hclosed hinit hv hfuel, hashChain_append _ _ hlen (List.cons_ne_nil 0 []),
      hashChain_last _ _ _ (by decide), messageBlock_padBlock_zero]
    rfl
end

section
/-! PROOFS. The commands of a session: what INIT, ABSORB and FINAL do, what they leave, and how they fail (41_session.md
R120 to R128). -/

namespace Sys2Proof.Machine

/-! ### Words that are no command -/

theorem performCommand_illegal {w : Word} (h : ∀ i, decode w ≠ .ok i) (s : State) :
    performCommand w s = .next { s with err := .illegalCmd } := by
  rcases performCommand_cases w s with ⟨i, -, hd, -, -⟩ | ⟨-, hc⟩
  · exact absurd hd (h i)
  · exact hc

/-- A reserved field that ends with the word reaches over the upper half, which is 0 in every command word. -/
theorem upper_reserved_eq_zero {w : Word} {start : Nat} (n : Nat) (hstart : start + n = 32)
    (hlow : w.extractLsb' start n = 0) (hhigh : w.extractLsb' 32 32 = 0) : w.extractLsb' start (n + 32) = 0 := by
  have hzero (lo len : Nat) : (0 : Word).extractLsb' lo len = 0 := BitVec.extractLsb'_zero ..
  have hcut := (slice_eq_iff (x := w) (y := 0) (start := start) n 32 rfl).mpr
  rw [hstart, hzero, hzero, hzero] at hcut
  exact hcut ⟨hlow, hhigh⟩

/-! ### Effects -/

theorem setIfInBounds_eq_set {n i : Nat} {buf : Vector Byte n} (x : Byte) (h : i < n) :
    buf.setIfInBounds i x = buf.set i x := by
  ext j hj : 1
  simp [Vector.getElem_setIfInBounds, Vector.getElem_set]

/-- Bytes for which the buffer has room are held with the others, and nothing but the buffer and FILL changes
(41_session.md R125). -/
theorem State.Holds.absorbBytes {s : State} {done : Nat} {held l : List Byte} (h : s.Holds done held)
    (hroom : held.length + l.length ≤ 128) :
    (s.absorbBytes l).Holds done (held ++ l) ∧
      s.absorbBytes l = { s with buf := (s.absorbBytes l).buf, fill := (s.absorbBytes l).fill } := by
  induction l generalizing s held with
  | nil => exact ⟨by rwa [List.append_nil], rfl⟩
  | cons x l ih =>
    rw [List.length_cons] at hroom
    have hfill : s.fill ≠ 128 := by
      intro hfull
      have hlen : held.length = 128 := by
        rw [← h.fill_toNat, hfull]
        rfl
      omega
    have hnext := h.appendByte x (by omega)
    obtain ⟨hholds, hframe⟩ := ih hnext (by rw [List.length_append, List.length_singleton]; omega)
    rw [List.append_assoc] at hholds
    rw [absorbBytes_cons, absorbByte_room x hfill]
    exact ⟨hholds, by rw [hframe]; rfl⟩

/-- A whole block of bytes fills an empty buffer and is not compressed (41_session.md R123). -/
theorem absorbBytes_block {s : State} {l : List Byte} (hempty : s.fill = 0) (hlen : l.length = 128) :
    s.absorbBytes l = { s with buf := padBlock l, fill := 128 } := by
  have hholds : s.Holds s.t.toNat [] := ⟨by simp, hempty, Nat.zero_le _, nofun⟩
  obtain ⟨hfull, hframe⟩ := hholds.absorbBytes (l := l) (by simp [hlen])
  have hfill := hfull.fill
  rw [List.nil_append, hlen] at hfill
  rw [hframe, hfull.buf_eq hlen, hfill]
  rfl

/-- The key block is the block of the key bytes and their padding (10_state.md R27; 41_session.md R122, R123). -/
theorem keyBlock_eq_padBlock_append (s : State) {keylen : Nat} (h : keylen ≤ 64) :
    s.keyBlock keylen =
      padBlock (((List.finRange 64).map s.keyByte).take keylen ++ List.replicate (128 - keylen) 0) := by
  have hlen : (((List.finRange 64).map s.keyByte).take keylen).length = keylen := by simpa using h
  ext j hj : 1
  rw [State.keyBlock, Vector.getElem_ofFn, getElem_padBlock]
  split
  next hin =>
    rw [List.getD_append _ _ _ _ (hlen.symm ▸ hin.1), List.getD_eq_getElem _ _ (hlen.symm ▸ hin.1)]
    simp
  next hout =>
    have hpast : keylen ≤ j := by
      by_contra hlt
      exact hout ⟨Nat.lt_of_not_le hlt, by dsimp only; omega⟩
    rw [List.getD_append_right _ _ _ _ (hlen.symm ▸ hpast)]
    simp

/-- `Mask(O, i)` keeps the byte lanes below `O` and clears the others (41_session.md R128). -/
theorem byteLane_maskedDigest (h : Vector Word 8) (outlen : Nat) (j : Fin 64) :
    byteLane (maskedDigest h outlen)[j.val / 8] (j.val % 8) =
      if j.val < outlen then byteLane h[j.val / 8] (j.val % 8) else 0 := by
  have hmask : byteLane (digestMask outlen (j.val / 8)) (j.val % 8) = if j.val < outlen then 0xFF else 0 := by
    have hlane := byteLane_le64 (Vector.ofFn fun k : Fin 8 => if 8 * (j.val / 8) + k.val < outlen then 0xFF else 0)
      ⟨j.val % 8, Nat.mod_lt _ (by decide)⟩
    simpa [digestMask, Nat.div_add_mod] using hlane
  have hand : byteLane (maskedDigest h outlen)[j.val / 8] (j.val % 8) =
      byteLane h[j.val / 8] (j.val % 8) &&& byteLane (digestMask outlen (j.val / 8)) (j.val % 8) := by
    simp [maskedDigest, byteLane, BitVec.extractLsb'_and]
  rw [hand, hmask]
  split
  · exact BitVec.and_allOnes
  · exact BitVec.and_zero

theorem getElem_initChain_zero (outlen keylen : BitVec 7) :
    (initChain outlen keylen)[0] = iv[0] ^^^ 0x01010000 ^^^ (keylen.setWidth 64 <<< 8) ^^^ outlen.setWidth 64 := by
  simp [initChain, paramWord, field, BitVec.xor_assoc]

theorem getElem_initChain_of_ne (outlen keylen : BitVec 7) {i : Fin 8} (h : i ≠ 0) :
    (initChain outlen keylen)[i] = iv[i] := getElem_set_of_ne iv _ h

end Sys2Proof.Machine

open Sys2Proof Sys2Proof.Machine

/-- Settles O17: the fields of `openSession`, the state check, and the bits and ranges that every decoded INIT word
keeps. -/
theorem initOpensSession : Obligations.InitOpensSession := by
  refine ⟨?opens, exec_init_open, ?illegal⟩
  case opens =>
    intro s outlen keylen strat _ hclosed
    refine ⟨_, exec_init s outlen keylen strat hclosed, getElem_initChain_zero outlen keylen,
      fun i hi => getElem_initChain_of_ne outlen keylen hi, rfl, fun j => ?buf,
      openSession_fill_eq_ite_pos s outlen keylen strat, rfl, fun i => ?dout, rfl, rfl, rfl, rfl, rfl, rfl⟩
    case buf => exact Vector.getElem_ofFn j.isLt
    case dout => exact Vector.getElem_replicate i.isLt
  case illegal =>
    intro s w hop hbad
    refine performCommand_illegal (fun i hd => ?_) s
    obtain ⟨hwf, hopcode, hfields, hup⟩ := laidOut_of_decode hd
    rw [hop] at hopcode
    cases i with
    | init outlen keylen strat =>
      obtain ⟨rfl, hres15, rfl, hres23, -, hres25⟩ := hfields
      obtain ⟨⟨hpos, hmax⟩, hkmax⟩ := (wellFormed_init _ _ strat).mp hwf
      rcases hbad with h | h | h | h | h | h
      · exact h (upper_reserved_eq_zero 7 rfl hres25 hup)
      · exact h hres23
      · exact h hres15
      all_goals omega
    | _ => simp [Instr.opcode] at hopcode

/-- Settles O18: the padded key is one block, which fills the empty buffer and waits there. -/
theorem keyedInitAbsorbsKeyBlock : Obligations.KeyedInitAbsorbsKeyBlock := by
  intro s t outlen keylen strat hwf hkey hclosed hinit start keyBytes
  rw [exec_init s outlen keylen strat hclosed] at hinit
  cases hinit
  obtain ⟨-, hmax⟩ := (wellFormed_init outlen keylen strat).mp hwf
  have hfill := openSession_fill_eq_ite_pos s outlen keylen strat
  rw [if_pos hkey] at hfill
  have hlen : (keyBytes.take keylen.toNat ++ List.replicate (128 - keylen.toNat) 0).length = 128 := by
    simp [keyBytes]
    omega
  refine ⟨?_, hfill, rfl, rfl⟩
  rw [absorbBytes_block rfl hlen, ← keyBlock_eq_padBlock_append s hmax]
  exact congrArg (fun fill => { (s.openSession outlen keylen strat).setErr .ok with fill := fill }) hfill.symm

/-- Settles O19: the two branches of AbsorbByte; either counter strategy adds 128. -/
theorem absorbByteDefersFullBlock : Obligations.AbsorbByteDefersFullBlock := by
  intro s x
  refine ⟨fun hroom => ?room, fun hfull => ?full⟩
  case room =>
    have hne : s.fill ≠ 128 := by
      intro he
      rw [he] at hroom
      exact absurd hroom (by decide)
    rw [absorbByte_room x hne, State.appendByte, setIfInBounds_eq_set x hroom]
  case full =>
    have ht : s.t + 128 = inc s.strat s.t 128 := (inc_eq_add s.strat s.t 128).symm
    rw [absorbByte_full x hfull, ht, ← setIfInBounds_eq_set]
    rfl

/-- Settles O20: the lanes of DIN are absorbed in order, within the frame of absorbing, and every decoded ABSORB word
keeps LEN in range and the reserved bits 0. -/
theorem absorbAppendsDinBytes : Obligations.AbsorbAppendsDinBytes := by
  refine ⟨?appends, exec_absorb_closed, ?illegal⟩
  case appends =>
    intro s len _ hopen
    refine ⟨_, exec_absorb s len hopen, rfl, ?_⟩
    rw [absorbBytes_frame]
    rfl
  case illegal =>
    intro s w hop hbad
    refine performCommand_illegal (fun i hd => ?_) s
    obtain ⟨hwf, hopcode, hfields, hup⟩ := laidOut_of_decode hd
    rw [hop] at hopcode
    cases i with
    | absorb len =>
      obtain ⟨rfl, hres⟩ := hfields
      have hmax := (wellFormed_absorb _).mp hwf
      rcases hbad with h | h
      · exact h (upper_reserved_eq_zero 20 rfl hres hup)
      · omega
    | _ => simp [Instr.opcode] at hopcode

/-- Settles O21: the fields of `closeSession`, with the mask read lane by lane, and the reserved bits that every decoded
FINAL word keeps 0. -/
theorem finalClosesSession : Obligations.FinalClosesSession := by
  refine ⟨?closes, exec_final_closed, ?illegal⟩
  case closes =>
    intro s hopen
    refine ⟨_, exec_final s hopen, closeSession_t_eq_add s, fun j => ?buf, rfl, rfl, fun j => ?dout, rfl, rfl, rfl⟩
    case buf => exact Vector.getElem_ofFn j.isLt
    case dout => exact byteLane_maskedDigest s.closeSession.h s.outlen.toNat j
  case illegal =>
    intro s w hop hbad
    refine performCommand_illegal (fun i hd => ?_) s
    obtain ⟨-, hopcode, hres, hup⟩ := laidOut_of_decode hd
    rw [hop] at hopcode
    cases i with
    | final => exact hbad (upper_reserved_eq_zero 24 rfl hres hup)
    | _ => simp [Instr.opcode] at hopcode
end

section
/-! PROOFS. A program of `ABS8` lines absorbs the bytes of its chunks one after the other and leaves no trace of where
it split them but DIN (41_session.md R126). -/

namespace Sys2Proof.Machine

/-- What `ABS8 v, n` leaves beside the session: DIN, the answer and ERR. -/
def State.afterAbs8 (v : Word) (s : State) : State := { s with din := v, reply := .written, err := .ok }

theorem afterAbs8_afterAbs8 (v w : Word) (s : State) : (s.afterAbs8 v).afterAbs8 w = s.afterAbs8 w := rfl

theorem absorbBytes_afterAbs8 (v : Word) (s : State) (l : List Byte) :
    (s.afterAbs8 v).absorbBytes l = (s.absorbBytes l).afterAbs8 v := by
  have h : s.afterAbs8 v = s.aside (s.afterAbs8 v) := rfl
  rw [h, absorbBytes_aside, absorbBytes_frame]
  rfl

/-- `runs_abs8` with the state it ends in written out. -/
theorem runs_abs8_afterAbs8 {s : State} (v : Word) {n : BitVec 4} (hn : n.toNat ≤ 8) (hopen : s.sstate = .absorbing) :
    Runs (abs8 v n) s ((s.absorbBytes ((List.range n.toNat).map (byteLane v))).afterAbs8 v) := by
  have habsorb := takes_command ((wellFormed_absorb n).mpr hn)
    (exec_absorb ((s.writeReg .din v).answer .written) n hopen) rfl
  have hend (l : List Byte) : ((((s.writeReg .din v).answer .written).absorbBytes l).setErr .ok).answer .written =
      (s.absorbBytes l).afterAbs8 v := by
    have hu : (s.writeReg .din v).answer .written = s.aside ((s.writeReg .din v).answer .written) := rfl
    rw [hu, absorbBytes_aside, absorbBytes_frame]
    rfl
  rw [hend] at habsorb
  exact .cons (takes_wr s v nofun) habsorb.runs

/-- After a first chunk the others are absorbed in order, and the last of all leaves its DIN. -/
theorem runs_chunks {p : List (Word × BitVec 4)} {s : State} (v : Word) (hlen : ∀ c ∈ p, c.2.toNat ≤ 8)
    (hopen : s.sstate = .absorbing) :
    ∃ w, Runs (chunkProgram p) (s.afterAbs8 v) ((s.absorbBytes (chunkBytes p)).afterAbs8 w) := by
  induction p generalizing s v with
  | nil => exact ⟨v, .nil _⟩
  | cons c p ih =>
    have hopen' : (s.afterAbs8 v).sstate = .absorbing := hopen
    have hfirst := runs_abs8_afterAbs8 c.1 (hlen c List.mem_cons_self) hopen'
    rw [absorbBytes_afterAbs8, afterAbs8_afterAbs8] at hfirst
    obtain ⟨w, hrest⟩ := ih c.1 (fun d hd => hlen d (List.mem_cons_of_mem c hd)) ((absorbBytes_sstate s _).trans hopen)
    rw [← absorbBytes_append] at hrest
    exact ⟨w, hfirst.append hrest⟩

/-- A program of chunks absorbs their bytes in order (30_encoding.md R88; 41_session.md R126). -/
theorem runProgram_chunkProgram {p : List (Word × BitVec 4)} {s : State} (hne : p ≠ [])
    (hlen : ∀ c ∈ p, c.2.toNat ≤ 8) (hopen : s.sstate = .absorbing) :
    ∃ v, s.runProgram (chunkProgram p) = .next (((s.absorbBytes (chunkBytes p)).afterAbs8 v).load []) := by
  obtain ⟨c, rest, rfl⟩ := List.exists_cons_of_ne_nil hne
  have hfirst := runs_abs8_afterAbs8 c.1 (hlen c List.mem_cons_self) hopen
  obtain ⟨v, hrest⟩ := runs_chunks c.1 (fun d hd => hlen d (List.mem_cons_of_mem c hd))
    ((absorbBytes_sstate s _).trans hopen)
  rw [← absorbBytes_append] at hrest
  exact ⟨v, (hfirst.append hrest).runProgram⟩

end Sys2Proof.Machine

open Sys2Proof Sys2Proof.Machine

/-- Settles O22: both programs absorb the one byte sequence, and their ends differ in DIN alone. -/
theorem splitInvariance : Obligations.SplitInvariance := by
  intro s p q hopen hp hq hplen hqlen hbytes
  obtain ⟨v, hv⟩ := runProgram_chunkProgram hp hplen hopen
  obtain ⟨w, hw⟩ := runProgram_chunkProgram hq hqlen hopen
  rw [← hbytes] at hw
  exact ⟨_, _, hv, hw, rfl, rfl⟩
end

section
/-! PROOFS. What a command leaves of the window: a register outside `writtenRegs` reads the same after it, and so do the
bytes outside their offsets (41_session.md R122, R124, R127; 42_counter.md R143; 43_compare.md R151, R153; 44_endian.md
R161). -/

namespace Sys2Proof.Machine

/-! ### The registers -/

theorem status_mem_writtenRegs (i : Instr) : .status ∈ writtenRegs i := by
  cases i
  case endian form => cases form <;> simp [writtenRegs]
  all_goals simp [writtenRegs]

/-- ERR shows in STATUS alone. -/
theorem readReg_setErr (s : State) (code : ErrCode) {r : Reg} (h : r ≠ .status) :
    (s.setErr code).readReg r = s.readReg r := by
  cases r
  case status => exact absurd rfl h
  all_goals rfl

/-- CMP and BELOW show in STATUS alone. -/
theorem readReg_setComparison (s : State) (c : CmpResult) {r : Reg} (h : r ≠ .status) :
    (s.setComparison c).readReg r = s.readReg r := by
  cases r
  case status => exact absurd rfl h
  all_goals rfl

theorem readReg_openSession (s : State) {outlen keylen : BitVec 7} {strat : Strategy} {r : Reg}
    (h : r ∉ writtenRegs (.init outlen keylen strat)) :
    (s.openSession outlen keylen strat).readReg r = s.readReg r := by
  cases r
  case status | t0 | t1 | ccount | h | dout | buf => simp [writtenRegs] at h
  all_goals rfl

theorem readReg_absorbBytes (s : State) (l : List Byte) {len : BitVec 4} {r : Reg}
    (h : r ∉ writtenRegs (.absorb len)) : (s.absorbBytes l).readReg r = s.readReg r := by
  rw [absorbBytes_frame]
  cases r
  case status | t0 | t1 | ccount | h | buf => simp [writtenRegs] at h
  all_goals rfl

theorem readReg_closeSession (s : State) {r : Reg} (h : r ∉ writtenRegs .final) :
    s.closeSession.readReg r = s.readReg r := by
  cases r
  case status | t0 | t1 | ccount | h | dout | buf => simp [writtenRegs] at h
  all_goals rfl

theorem readReg_setEcvOut (s : State) (v : Word) {r : Reg} (h : r ∉ writtenRegs (.endian .value)) :
    ({ s with ecvOut := v, err := .ok } : State).readReg r = s.readReg r := by
  cases r
  case status | ecvOut => simp [writtenRegs] at h
  all_goals rfl

theorem readReg_setEcvIn (s : State) (v : Word) {r : Reg} (h : r ∉ writtenRegs (.endian .inPlace)) :
    ({ s with ecvIn := v, err := .ok } : State).readReg r = s.readReg r := by
  cases r
  case status | ecvIn => simp [writtenRegs] at h
  all_goals rfl

theorem readReg_setCtr (s : State) (lo hi : Word) {variant : Strategy} {r : Reg}
    (h : r ∉ writtenRegs (.ctrinc variant)) :
    ({ s with ctrLo := lo, ctrHi := hi, err := .ok } : State).readReg r = s.readReg r := by
  cases r
  case status | ctrLo | ctrHi => simp [writtenRegs] at h
  all_goals rfl

theorem exec_readReg {i : Instr} {s t : State} {r : Reg} (h : exec i s = .next t) (hr : r ∉ writtenRegs i) :
    t.readReg r = s.readReg r := by
  have hstatus : r ≠ .status := by
    rintro rfl
    exact hr (status_mem_writtenRegs i)
  rcases exec_cases h with h | ⟨outlen, keylen, strat, rfl, -, h⟩ | ⟨len, rfl, -, h⟩ | ⟨rfl, -, h⟩ | ⟨rfl, h⟩ |
    ⟨rfl, -, h⟩ | ⟨rfl, h⟩ | ⟨rfl, h⟩ | ⟨variant, rfl, h⟩ <;> cases h
  case inl => exact readReg_setErr s _ hstatus
  case inr.inl => rw [readReg_setErr _ _ hstatus, readReg_openSession s hr]
  case inr.inr.inl => rw [readReg_setErr _ _ hstatus, readReg_absorbBytes s _ hr]
  case inr.inr.inr.inl => rw [readReg_setErr _ _ hstatus, readReg_closeSession s hr]
  case inr.inr.inr.inr.inl => rw [readReg_setErr _ _ hstatus, readReg_setComparison s _ hstatus]
  case inr.inr.inr.inr.inr.inl => rw [readReg_setErr _ _ hstatus, readReg_setComparison s _ hstatus]
  case inr.inr.inr.inr.inr.inr.inl => exact readReg_setEcvOut s _ hr
  case inr.inr.inr.inr.inr.inr.inr.inl => exact readReg_setEcvIn s _ hr
  case inr.inr.inr.inr.inr.inr.inr.inr => exact readReg_setCtr s _ _ hr

/-! ### The bytes -/

/-- A byte of the window is a byte of the register that lies there, if one does (20_memory.md R60, R63). -/
theorem windowByte_congr {s t : State} {addr : Nat} (hbase : t.base = s.base)
    (hreg : ∀ r : Reg, s.base + r.offset ≤ addr → addr < s.base + r.offset + 8 → t.readReg r = s.readReg r) :
    t.windowByte addr = s.windowByte addr := by
  rw [State.windowByte, State.windowByte, hbase]
  split
  next hin =>
    have hoffset : t.readOffset (addr - s.base - (addr - s.base) % 8) =
        s.readOffset (addr - s.base - (addr - s.base) % 8) := by
      rcases hr : regAt (addr - s.base - (addr - s.base) % 8) with _ | r
      · rw [readOffset_unmapped t hr, readOffset_unmapped s hr]
      · have hoff := offset_of_regAt hr
        rw [← hoff, readOffset_offset, readOffset_offset]
        exact hreg r (by omega) (by omega)
    simp only [hoffset]
  next => rfl

end Sys2Proof.Machine

open Sys2Proof Sys2Proof.Machine

/-- Settles O48: every register outside `writtenRegs` reads the same after the command, and a byte is read from the
register that lies there. -/
theorem commandFrames : Obligations.CommandFrames := by
  intro i s t h
  refine ⟨fun addr houtside => ?_, exec_host h⟩
  obtain ⟨hbase, -⟩ := exec_host h
  exact windowByte_congr hbase fun r hlow hhigh => exec_readReg h fun hmem => houtside r hmem ⟨hlow, hhigh⟩
end

section
/-! PROOFS. The standalone counter: what CTRINC leaves and how it fails, and that a session's counter strategy shows in
STATUS.STRAT alone (42_counter.md R143 to R145). -/

namespace Sys2Proof.Machine

/-! ### The standalone counter -/

/-- The two limbs of a counter spell it (00_scope.md R7). -/
theorem toNat_counterHi_counterLo (c : BitVec 128) :
    (counterHi c).toNat * 2 ^ 64 + (counterLo c).toNat = c.toNat := by
  rw [toNat_counterHi, toNat_counterLo, Nat.div_add_mod']

theorem toNat_inc_counter (strat : Strategy) (hi lo n : Word) :
    (inc strat (counter hi lo) n).toNat = (hi.toNat * 2 ^ 64 + lo.toNat + n.toNat) % 2 ^ 128 := by
  have hn : (n.setWidth 128).toNat = n.toNat := BitVec.toNat_setWidth_of_le (by decide)
  rw [inc_eq_add, BitVec.toNat_add, toNat_counter, hn]

/-! ### Replacing the strategy -/

/-- The session's counter strategy, replaced. -/
def State.setStrat (strat : Strategy) (s : State) : State := { s with strat := strat }

theorem inc_eq_inc (strat strat' : Strategy) (c : BitVec 128) (n : Word) : inc strat c n = inc strat' c n := by
  rw [inc_eq_add, inc_eq_add]

/-- The one place where a command uses the session's strategy (42_counter.md R145). -/
theorem compress_setStrat (strat : Strategy) (s : State) (n : Word) (last : Bool) :
    (s.setStrat strat).compress n last = (s.compress n last).setStrat strat := by
  have ht : inc (s.setStrat strat).strat (s.setStrat strat).t n = inc s.strat s.t n := inc_eq_inc ..
  rw [State.compress, ht]
  rfl

theorem flush_setStrat (strat : Strategy) (s : State) : (s.setStrat strat).flush = s.flush.setStrat strat := by
  rw [State.flush, compress_setStrat]
  rfl

theorem absorbByte_setStrat (strat : Strategy) (s : State) (x : Byte) :
    (s.setStrat strat).absorbByte x = (s.absorbByte x).setStrat strat := by
  by_cases hfull : s.fill = 128
  · have hfull' : (s.setStrat strat).fill = 128 := hfull
    rw [absorbByte_full x hfull, absorbByte_full x hfull', flush_setStrat]
    rfl
  · have hroom' : (s.setStrat strat).fill ≠ 128 := hfull
    rw [absorbByte_room x hfull, absorbByte_room x hroom']
    rfl

theorem absorbBytes_setStrat (strat : Strategy) (s : State) (l : List Byte) :
    (s.setStrat strat).absorbBytes l = (s.absorbBytes l).setStrat strat := by
  induction l generalizing s with
  | nil => rfl
  | cons x l ih => rw [absorbBytes_cons, absorbByte_setStrat, ih, absorbBytes_cons]

theorem closeSession_setStrat (strat : Strategy) (s : State) :
    (s.setStrat strat).closeSession = s.closeSession.setStrat strat := by
  have ht : (s.setStrat strat).closeSession.t = s.closeSession.t := inc_eq_inc ..
  have hh : (s.setStrat strat).closeSession.h = s.closeSession.h := by
    rw [closeSession_h, closeSession_h, ht]
    rfl
  have hdout : (s.setStrat strat).closeSession.dout = s.closeSession.dout := by
    rw [closeSession_dout, closeSession_dout, hh]
    rfl
  rw [closeSession_frame (s.setStrat strat), ht, hh, hdout]
  rfl

theorem setStrat_setErr (strat : Strategy) (code : ErrCode) (s : State) :
    (s.setStrat strat).setErr code = (s.setErr code).setStrat strat := rfl

/-! ### Reading the strategy -/

/-- INIT within a session, which fails, and every other command keep the strategy, and what else they do does not depend
on it (42_counter.md R145). -/
theorem exec_setStrat {i : Instr} {s : State}
    (h : s.sstate = .absorbing ∨ ∀ outlen keylen st, i ≠ .init outlen keylen st) (strat : Strategy) :
    exec i (s.setStrat strat) = onNext (State.setStrat strat) (exec i s) := by
  cases i with
  | init outlen keylen st =>
    have hs : s.sstate = .absorbing := h.resolve_right fun hi => hi outlen keylen st rfl
    rw [exec_init_open s _ _ _ hs, exec_init_open (s.setStrat strat) _ _ _ hs, setStrat_setErr, onNext_next]
  | absorb len =>
    by_cases hs : s.sstate = .absorbing
    · have hdin : (s.setStrat strat).dinBytes len.toNat = s.dinBytes len.toNat := rfl
      rw [exec_absorb s len hs, exec_absorb (s.setStrat strat) len hs, hdin, absorbBytes_setStrat, setStrat_setErr,
        onNext_next]
    · rw [exec_absorb_closed s len hs, exec_absorb_closed (s.setStrat strat) len hs, setStrat_setErr, onNext_next]
  | final =>
    by_cases hs : s.sstate = .absorbing
    · rw [exec_final s hs, exec_final (s.setStrat strat) hs, closeSession_setStrat, setStrat_setErr, onNext_next]
    · rw [exec_final_closed s hs, exec_final_closed (s.setStrat strat) hs, setStrat_setErr, onNext_next]
  | cmp => rfl
  | cmpd =>
    by_cases hs : s.sstate = .finalized
    · rw [exec_cmpd s hs, exec_cmpd (s.setStrat strat) hs]
      rfl
    · rw [exec_cmpd_open s hs, exec_cmpd_open (s.setStrat strat) hs, setStrat_setErr, onNext_next]
  | endian form => cases form <;> rfl
  | ctrinc variant => rfl

/-- A one-bit field shows in its own bit alone. -/
theorem getLsbD_field_bit_of_ne (b : BitVec 1) {lo j : Nat} (h : j ≠ lo) : (field b lo).getLsbD j = false := by
  rw [getLsbD_field]
  by_cases hle : lo ≤ j
  · rw [BitVec.getLsbD_of_ge b (j - lo) (by omega), Bool.and_false, Bool.and_false]
  · rw [decide_eq_false hle, Bool.false_and, Bool.and_false]

theorem getLsbD_statusWord_setStrat (strat : Strategy) (s : State) {j : Nat} (h : j ≠ 2) :
    (s.setStrat strat).statusWord.getLsbD j = s.statusWord.getLsbD j := by
  simp only [State.statusWord, BitVec.getLsbD_or, getLsbD_field_bit_of_ne _ h]
  rfl

theorem readReg_setStrat (strat : Strategy) (s : State) {r : Reg} (h : r ≠ .status) :
    (s.setStrat strat).readReg r = s.readReg r := by
  cases r
  case status => exact absurd rfl h
  all_goals rfl

end Sys2Proof.Machine

open Sys2Proof Sys2Proof.Machine

/-- Settles O32: each strategy is the sum. -/
theorem counterStrategiesAgree : Obligations.CounterStrategiesAgree := fun c n =>
  ⟨(seqInc_eq_add c n).trans (parInc_eq_add c n).symm, seqInc_eq_add c n⟩

/-- Settles O33: the new limbs spell the increment, which is the sum for either strategy, and every decoded CTRINC word
keeps the reserved bits 0. -/
theorem ctrincAdvancesCounter : Obligations.CtrincAdvancesCounter := by
  refine ⟨?advances, ?illegal⟩
  case advances =>
    intro s variant
    exact ⟨_, exec_ctrinc s variant, (toNat_counterHi_counterLo _).trans (toNat_inc_counter variant _ _ _), rfl⟩
  case illegal =>
    intro s w hop hbad
    refine performCommand_illegal (fun i hd => ?_) s
    obtain ⟨-, hopcode, hfields, hup⟩ := laidOut_of_decode hd
    rw [hop] at hopcode
    cases i with
    | ctrinc variant =>
      obtain ⟨-, hres⟩ := hfields
      exact hbad (upper_reserved_eq_zero 23 rfl hres hup)
    | _ => simp [Instr.opcode] at hopcode

/-- Settles O34: replacing the strategy commutes with every command but an INIT that succeeds, which latches its own. -/
theorem strategyIsInvisible : Obligations.StrategyIsInvisible := by
  refine ⟨fun i s strat hi => exec_setStrat (.inr hi) strat,
    fun s outlen keylen strat strat' => ⟨fun hclosed => ?overwrites, fun hopen => exec_setStrat (.inl hopen) strat⟩,
    fun s outlen keylen strat strat' hclosed => ?latches, fun s strat r hr => readReg_setStrat strat s hr,
    fun s strat j hj => getLsbD_statusWord_setStrat strat s hj⟩
  case overwrites =>
    rw [exec_init s outlen keylen strat' hclosed, exec_init { s with strat := strat } outlen keylen strat' hclosed]
    rfl
  case latches =>
    rw [exec_init s outlen keylen strat' hclosed, exec_init s outlen keylen strat hclosed]
    rfl
end

section
/-! PROOFS. The comparator orders limbs as numbers, and the limbs CMPD forms spell the digest read big-endian, so CMP
and CMPD compare numbers (43_compare.md R151 to R155). -/

namespace Sys2Proof.Machine

/-! ### Big-endian numbers -/

theorem bigEndianValue_concat (bytes : List Byte) (b : Byte) :
    bigEndianValue (bytes ++ [b]) = bigEndianValue bytes * 256 + b.toNat := by
  simp [bigEndianValue, Nat.mul_comm]

theorem bigEndianValue_append (l m : List Byte) :
    bigEndianValue (l ++ m) = bigEndianValue l * 256 ^ m.length + bigEndianValue m := by
  induction m using List.reverseRecOn with
  | nil => simp [bigEndianValue]
  | append_singleton m b ih =>
    rw [← List.append_assoc, bigEndianValue_concat, ih, bigEndianValue_concat, List.length_append,
      List.length_singleton]
    ring

theorem bigEndianValue_cons (b : Byte) (l : List Byte) :
    bigEndianValue (b :: l) = b.toNat * 256 ^ l.length + bigEndianValue l := by
  rw [← List.singleton_append, bigEndianValue_append]
  simp [bigEndianValue]

/-- The sum a big-endian number is (43_compare.md R155). -/
theorem bigEndianValue_ofFn {n : Nat} (f : Fin n → Byte) :
    bigEndianValue (List.ofFn f) = ((List.finRange n).map fun j => (f j).toNat * 2 ^ (8 * (n - 1 - j.val))).sum := by
  induction n with
  | zero => rfl
  | succ n ih =>
    have hrest (j : Fin n) : n - (j.val + 1) = n - 1 - j.val := by omega
    rw [List.ofFn_succ, bigEndianValue_cons, ih, List.finRange_succ]
    simp [Function.comp_def, pow_mul, hrest]

/-- The byte lanes of a word are its digits to the base 256 (20_memory.md R63). -/
theorem toNat_eq_bigEndianValue_lanes (w : Word) :
    w.toNat = bigEndianValue (List.ofFn fun k : Fin 8 => byteLane w (7 - k.val)) := by
  have hlanes : (List.ofFn fun k : Fin 8 => byteLane w (7 - k.val)) =
      [byteLane w 7, byteLane w 6, byteLane w 5, byteLane w 4, byteLane w 3, byteLane w 2, byteLane w 1,
        byteLane w 0] := rfl
  rw [hlanes]
  simp only [bigEndianValue, List.foldl_cons, List.foldl_nil, byteLane, BitVec.extractLsb'_toNat,
    Nat.shiftRight_eq_div_pow]
  omega

/-- `BE64` of eight bytes is the number they spell (00_scope.md R8). -/
theorem toNat_be64 (f : Fin 8 → Byte) : (be64 (Vector.ofFn f)).toNat = bigEndianValue (List.ofFn f) := by
  have hlane (k : Fin 8) : byteLane (be64 (Vector.ofFn f)) (7 - k.val) = f k := by
    have hrev : 7 - (7 - k.val) = k.val := by omega
    rw [byteLane_be64 _ ⟨7 - k.val, by omega⟩, Vector.getElem_ofFn]
    simp only [hrev]
  simp only [toNat_eq_bigEndianValue_lanes, hlane]

/-- Groups of eight bytes are limbs: their numbers join to the number of all the bytes. -/
theorem limbValue_ofFn_groups {limb : Fin 4 → Word} {group : Fin 4 → List Byte} (hlen : ∀ i, (group i).length = 8)
    (hlimb : ∀ i, (limb i).toNat = bigEndianValue (group i)) :
    limbValue (Vector.ofFn limb) = bigEndianValue (List.ofFn group).flatten := by
  have hbytes : (List.ofFn group).flatten = group 0 ++ (group 1 ++ (group 2 ++ group 3)) := by simp
  have hlimbs : limbValue (Vector.ofFn limb) =
      (limb 0).toNat * 2 ^ 192 + (limb 1).toNat * 2 ^ 128 + (limb 2).toNat * 2 ^ 64 + (limb 3).toNat := by
    simp [limbValue]
  simp only [hbytes, hlimbs, hlimb, bigEndianValue_append, List.length_append, hlen]
  ring

/-- Four `BE64`s spell the number of their 32 bytes (43_compare.md R155). -/
theorem limbValue_be64 (f : Fin 32 → Byte) :
    limbValue (Vector.ofFn fun i : Fin 4 => be64 (Vector.ofFn fun k : Fin 8 => f ⟨8 * i.val + k.val, by omega⟩)) =
      bigEndianValue (List.ofFn f) := by
  rw [List.ofFn_mul' (m := 8) (n := 4) f]
  exact limbValue_ofFn_groups (fun _ => List.length_ofFn) fun _ => toNat_be64 _

/-- CMPD's limbs are the `BE64`s of the digest bytes (43_compare.md R153). -/
theorem digestNumber_eq_be64 (s : State) :
    s.digestNumber =
      Vector.ofFn fun i : Fin 4 => be64 (Vector.ofFn fun k : Fin 8 => s.digestByte ⟨8 * i.val + k.val, by omega⟩) := by
  have hbyte (i : Fin 4) (k : Fin 8) : s.digestByte ⟨8 * i.val + k.val, by omega⟩ = byteLane s.dout[i.val] k.val := by
    have hdiv : (8 * i.val + k.val) / 8 = i.val := by omega
    have hmod : (8 * i.val + k.val) % 8 = k.val := by omega
    simp only [State.digestByte, hdiv, hmod]
  simp only [hbyte]
  rfl

theorem take_digestBytes (s : State) :
    s.digestBytes.take 32 = List.ofFn fun j : Fin 32 => s.digestByte ⟨j.val, by omega⟩ := by
  refine List.ext_getElem ?length ?bytes
  case length => simp [State.digestBytes]
  case bytes => simp [State.digestBytes]

theorem limbValue_digestNumber (s : State) : limbValue s.digestNumber = bigEndianValue (s.digestBytes.take 32) := by
  rw [digestNumber_eq_be64, take_digestBytes]
  exact limbValue_be64 fun j => s.digestByte ⟨j.val, by omega⟩

/-! ### The comparator -/

/-- The result code of comparing two numbers (43_compare.md R150). -/
def CmpResult.ofNumbers (m n : Nat) : CmpResult := if m < n then .lt else if n < m then .gt else .eq

theorem ofNumbers_eq_lt {m n : Nat} : CmpResult.ofNumbers m n = .lt ↔ m < n := by
  unfold CmpResult.ofNumbers
  split_ifs <;> simp <;> omega

theorem ofNumbers_eq_gt {m n : Nat} : CmpResult.ofNumbers m n = .gt ↔ n < m := by
  unfold CmpResult.ofNumbers
  split_ifs <;> simp <;> omega

theorem ofNumbers_eq_eq {m n : Nat} : CmpResult.ofNumbers m n = .eq ↔ m = n := by
  unfold CmpResult.ofNumbers
  split_ifs <;> simp <;> omega

/-- Unequal high parts decide, as the low parts differ by less than one unit of the high parts (43_compare.md R152). -/
theorem ofNumbers_high_low {u x y : Nat} (a b : Nat) (hx : x < u) (hy : y < u) :
    CmpResult.ofNumbers (a * u + x) (b * u + y) =
      if a < b then .lt else if b < a then .gt else CmpResult.ofNumbers x y := by
  rcases lt_trichotomy a b with hab | rfl | hba
  · have hle : a * u + u ≤ b * u := by
      rw [← Nat.succ_mul]
      exact Nat.mul_le_mul_right u hab
    rw [if_pos hab, ofNumbers_eq_lt]
    omega
  · simp [CmpResult.ofNumbers]
  · have hle : b * u + u ≤ a * u := by
      rw [← Nat.succ_mul]
      exact Nat.mul_le_mul_right u hba
    rw [if_neg hba.asymm, if_pos hba, ofNumbers_eq_gt]
    omega

/-- The comparator compares the numbers the limbs spell: each limb is the high part over the limbs after it
(43_compare.md R152). -/
theorem cmp256_eq_ofNumbers (a b : Vector Word 4) :
    cmp256 a b = CmpResult.ofNumbers (limbValue a) (limbValue b) := by
  rw [limbValue, limbValue]
  simp only [add_assoc]
  rw [ofNumbers_high_low _ _ (by omega) (by omega), ofNumbers_high_low _ _ (by omega) (by omega),
    ofNumbers_high_low _ _ (by omega) (by omega)]
  rfl

theorem cmp256_eq_lt {a b : Vector Word 4} : cmp256 a b = .lt ↔ limbValue a < limbValue b := by
  rw [cmp256_eq_ofNumbers, ofNumbers_eq_lt]

theorem cmp256_eq_gt {a b : Vector Word 4} : cmp256 a b = .gt ↔ limbValue b < limbValue a := by
  rw [cmp256_eq_ofNumbers, ofNumbers_eq_gt]

theorem cmp256_eq_eq {a b : Vector Word 4} : cmp256 a b = .eq ↔ limbValue a = limbValue b := by
  rw [cmp256_eq_ofNumbers, ofNumbers_eq_eq]

/-! ### The words of CMP and CMPD -/

/-- No word with the opcode of CMP or CMPD and a reserved bit set is a command (30_encoding.md R84). -/
theorem performCommand_compare_reserved (s : State) {w : Word}
    (hop : w.extractLsb' 0 8 = 0x04 ∨ w.extractLsb' 0 8 = 0x05) (hbad : w.extractLsb' 8 56 ≠ 0) :
    performCommand w s = .next { s with err := .illegalCmd } := by
  refine performCommand_illegal (fun i hd => ?_) s
  obtain ⟨-, hopcode, hfields, hup⟩ := laidOut_of_decode hd
  rw [hopcode] at hop
  cases i with
  | cmp | cmpd => exact hbad (upper_reserved_eq_zero 24 rfl hfields hup)
  | _ => simp [Instr.opcode] at hop

end Sys2Proof.Machine

open Sys2Proof Sys2Proof.Machine

/-- Settles O35: the comparator is the order of the numbers. -/
theorem comparatorMatchesNumbers : Obligations.ComparatorMatchesNumbers := by
  refine ⟨fun a b => ⟨cmp256_eq_lt, cmp256_eq_eq, cmp256_eq_gt, cmp256_eq_lt.trans cmp256_eq_gt.symm⟩,
    fun a b c hab hbc => ?_⟩
  exact cmp256_eq_lt.mpr ((cmp256_eq_lt.mp hab).trans (cmp256_eq_lt.mp hbc))

/-- Settles O36: CMP writes the comparator's result on operand A and the threshold, and BELOW with it. -/
theorem cmpComparesOperands : Obligations.CmpComparesOperands := by
  refine ⟨fun s => ⟨_, exec_cmp s, cmp256_eq_lt, cmp256_eq_eq, cmp256_eq_gt, ?below, rfl⟩,
    fun s w hop hbad => performCommand_compare_reserved s (.inl hop) hbad⟩
  exact decide_eq_true_iff.trans cmp256_eq_lt

/-- Settles O37: CMPD's limbs spell the digest, so the comparator's result on them is that of the digest's number. -/
theorem cmpdComparesDigest : Obligations.CmpdComparesDigest := by
  refine ⟨fun s hfinal => ⟨_, exec_cmpd s hfinal, ?_⟩, exec_cmpd_open,
    fun s w hop hbad => performCommand_compare_reserved s (.inr hop) hbad⟩
  rw [← limbValue_digestNumber]
  exact ⟨cmp256_eq_lt, cmp256_eq_eq, cmp256_eq_gt, decide_eq_true_iff, rfl⟩

/-- Settles O38: each limb is the number of its eight bytes, and the numbers of consecutive bytes join to one. -/
theorem digestLimbsSpellDigest : Obligations.DigestLimbsSpellDigest :=
  ⟨fun d => (limbValue_be64 fun j => d[j]).trans (bigEndianValue_ofFn fun j => d[j]), limbValue_digestNumber⟩
end

section
/-! PROOFS. The endian converter: byte `k` of the register weighs as byte `7-k` of the result, so the result is the
register's bytes read big-endian, and converting twice is the identity (44_endian.md R160 to R162). -/

namespace Sys2Proof.Machine

/-- The reversed word is the big-endian value of the lanes (44_endian.md R160). -/
theorem toNat_bswap64 (x : Word) :
    (bswap64 x).toNat =
      ((List.finRange 8).map fun k => (x.extractLsb' (8 * k.val) 8).toNat * 2 ^ (8 * (7 - k.val))).sum :=
  (toNat_be64 fun k => byteLane x k.val).trans (bigEndianValue_ofFn fun k => byteLane x k.val)

/-- Reversing the byte lanes twice puts every lane back (44_endian.md R162). -/
theorem bswap64_bswap64 (x : Word) : bswap64 (bswap64 x) = x := by
  refine word_ext_lanes fun k => ?_
  have hrev : 7 - (7 - k.val) = k.val := by omega
  calc byteLane (bswap64 (bswap64 x)) k.val
      = byteLane (bswap64 x) (7 - k.val) := byteLane_bswap64 _ k
    _ = byteLane x (7 - (7 - k.val)) := byteLane_bswap64 x ⟨7 - k.val, by omega⟩
    _ = byteLane x k.val := by rw [hrev]

/-- No word with the opcode of ENDIAN and a reserved bit set is a command (30_encoding.md R84). -/
theorem performCommand_endian_reserved (s : State) {w : Word} (hop : w.extractLsb' 0 8 = 0x06)
    (hbad : w.extractLsb' 9 55 ≠ 0) : performCommand w s = .next { s with err := .illegalCmd } := by
  refine performCommand_illegal (fun i hd => ?_) s
  obtain ⟨-, hopcode, hfields, hup⟩ := laidOut_of_decode hd
  rw [hop] at hopcode
  cases i with
  | endian form =>
    obtain ⟨-, hres⟩ := hfields
    exact hbad (upper_reserved_eq_zero 23 rfl hres hup)
  | _ => simp [Instr.opcode] at hopcode

end Sys2Proof.Machine

open Sys2Proof Sys2Proof.Machine

/-- Settles O39: both forms write the reversed word, which is the big-endian value of the lanes. -/
theorem endianConverts : Obligations.EndianConverts := by
  refine ⟨fun s => ⟨?value, ?inPlace⟩, fun s _ => performCommand_endian_reserved s⟩
  case value => exact ⟨_, exec_endian_value s, toNat_bswap64 s.ecvIn, rfl⟩
  case inPlace => exact ⟨_, exec_endian_inPlace s, toNat_bswap64 s.ecvIn, rfl⟩

/-- Settles O40: each form runs twice, and reversing the lanes twice is the identity. -/
theorem endianTwiceRestores : Obligations.EndianTwiceRestores := by
  intro s
  refine ⟨⟨_, _, exec_endian_inPlace s, exec_endian_inPlace _, ?inPlace⟩,
    ⟨_, _, exec_endian_value s, exec_endian_value _, ?value⟩⟩
  case inPlace => simp only [bswap64_bswap64]
  case value => exact bswap64_bswap64 s.ecvIn
end

section
/-! PROOFS. Exceptions: the accesses the bus stops, how every command completes, and what a move of one instance leaves
of the others (60_exceptions.md R200 to R203, R210). -/

namespace Sys2Proof.Machine

/-! ### Accesses the bus stops -/

theorem State.accepts_eq_false_iff (s : State) (a : BusAccess) :
    s.accepts a = false ↔ a.width ≠ 8 ∨ (a.addr - s.base) % 8 ≠ 0 := by
  simp [State.accepts, Config.busBytes, Decidable.imp_iff_not_or]

/-- A second agent's access is refused, whatever it is (60_exceptions.md R210). -/
theorem step_foreign_agent {s : State} {agent : Nat} (a : BusAccess) (rest : List Input) (h : agent ≠ s.owner) :
    step { s with pending := .bus agent a :: rest } = .refused (.twoAgents agent) :=
  if_pos h

/-- The host's access outside the window is refused, whatever its width (20_memory.md R73). -/
theorem step_outside_window {s : State} {a : BusAccess} (rest : List Input) (h : s.inWindow a.addr = false) :
    step { s with pending := .bus s.owner a :: rest } = .refused (.outsideWindow a.addr) :=
  (if_neg (fun hne => hne rfl)).trans (if_pos h)

/-- A fault marks the host as stopped and keeps the CORE's state (60_exceptions.md R202). -/
theorem Slot.advance_of_fault {s : State} {r : Fault} (h : step s = .fault r) :
    Slot.advance { core := s, stopped := none } = { core := s, stopped := some (.fault r) } := by
  simp only [Slot.advance, h]

/-! ### How a command completes -/

/-- Every command completes, whatever the state (60_exceptions.md R200). -/
theorem exec_completes (i : Instr) (s : State) : ∃ t, exec i s = .next t := by
  rcases exec_cases (rfl : exec i s = _) with h | ⟨o, k, st, -, -, h⟩ | ⟨len, -, -, h⟩ | ⟨-, -, h⟩ | ⟨-, h⟩ |
    ⟨-, -, h⟩ | ⟨-, h⟩ | ⟨-, h⟩ | ⟨v, -, h⟩ <;> exact ⟨_, h⟩

/-- A command that decoded reports no ILLEGAL_CMD (60_exceptions.md R203). -/
theorem exec_err_ne_illegalCmd {i : Instr} {s t : State} (h : exec i s = .next t) : t.err ≠ .illegalCmd := by
  rcases exec_flag_writers h with rfl | ⟨hok, -⟩
  · exact nofun
  · rw [hok]
    exact nofun

/-- A command that reports a failure changes nothing but ERR (60_exceptions.md R201). -/
theorem exec_failure {i : Instr} {s t : State} (h : exec i s = .next t) (hne : t.err ≠ .ok) : t = s.setErr t.err := by
  rcases exec_flag_writers h with rfl | ⟨hok, -⟩
  · rfl
  · exact absurd hok hne

/-- ILLEGAL_CMD is reported for exactly the words that are no command, whatever the state (60_exceptions.md R203). -/
theorem performCommand_err_illegalCmd_iff {w : Word} {s t : State} (h : performCommand w s = .next t) :
    t.err = .illegalCmd ↔ ∀ i, decode w ≠ .ok i := by
  rcases performCommand_cases w s with ⟨i, u, hd, hx, hc⟩ | ⟨hd, hc⟩
  · cases hc.symm.trans h
    exact iff_of_false (exec_err_ne_illegalCmd hx) (fun hall => hall i hd)
  · cases hc.symm.trans h
    exact iff_of_true rfl hd

/-! ### The other instances -/

/-- The reset input resets every instance, and advances the one whose input it was (70_reset_and_hazards.md R220). -/
theorem System.stepAt_of_reset {sys : System} {k : Nat} {sl : Slot} (hk : sys.slots[k]? = some sl)
    (h : sl.resetIsNext = true) :
    sys.stepAt k = { slots := (sys.slots.map Slot.applyReset).set k sl.advance } := by
  rw [System.stepAt, hk]
  exact if_pos h

/-- An input that is no reset advances its own instance in its place (60_exceptions.md R210). -/
theorem System.stepAt_of_no_reset {sys : System} {k : Nat} {sl : Slot} (hk : sys.slots[k]? = some sl)
    (h : sl.resetIsNext = false) : sys.stepAt k = { slots := sys.slots.modify k Slot.advance } := by
  refine System.stepAt_eq_modify fun sl' hk' => ?_
  cases hk.symm.trans hk'
  exact h

/-- The instance that moves advances, whether its input is the reset or not. -/
theorem System.getElem?_stepAt_self {sys : System} {k : Nat} {sl : Slot} (hk : sys.slots[k]? = some sl) :
    (sys.stepAt k).slots[k]? = some sl.advance := by
  cases h : sl.resetIsNext with
  | true =>
    have hlt : k < sys.slots.length := (List.getElem?_eq_some_iff.mp hk).1
    rw [System.stepAt_of_reset hk h]
    exact List.getElem?_set_self (by rwa [List.length_map])
  | false =>
    rw [System.stepAt_of_no_reset hk h]
    simp [hk]

end Sys2Proof.Machine

open Sys2Proof Sys2Proof.Machine

/-- Settles O11: the bus refuses the access before it is performed, and the stopped slot keeps its core. -/
theorem unacceptedAccessIsBusError : Obligations.UnacceptedAccessIsBusError := by
  intro s a rest hlo hhi hbad u
  have hfault : step u = .fault (.busError a.addr) :=
    step_unaccepted s a rest ((s.inWindow_iff a.addr).mpr ⟨hlo, hhi⟩) ((s.accepts_eq_false_iff a).mpr hbad)
  exact ⟨hfault, Slot.advance_of_fault hfault⟩

/-- Settles O47: a command fails with INVALID_STATE or ends with OK, and a word that is none fails with ILLEGAL_CMD. -/
theorem failureChangesOnlyErr : Obligations.FailureChangesOnlyErr := by
  refine ⟨?commands, ?words⟩
  case commands =>
    intro i s
    obtain ⟨t, ht⟩ := exec_completes i s
    exact ⟨t, ht, exec_err_ne_illegalCmd ht, exec_failure ht⟩
  case words =>
    intro w s
    obtain ⟨t, ht, hfail⟩ := performCommand_completes w s
    exact ⟨t, ht, hfail, performCommand_err_illegalCmd_iff ht⟩

/-- Settles O50: a move changes its own instance's slot, in the old system or, for the reset input, in the reset one. -/
theorem instancesDoNotInterfere : Obligations.InstancesDoNotInterfere := by
  intro sys j k sl other hk hj hjk
  refine ⟨?alone, ?reset, System.getElem?_stepAt_self hk⟩
  case alone =>
    intro h
    rw [System.stepAt_of_no_reset hk h]
    exact (List.getElem?_modify_ne Slot.advance sys.slots hjk.symm).trans hj
  case reset =>
    intro h
    rw [System.stepAt_of_reset hk h]
    calc ((sys.slots.map Slot.applyReset).set k sl.advance)[j]?
        = (sys.slots.map Slot.applyReset)[j]? := List.getElem?_set_ne hjk.symm
      _ = some other.applyReset := by rw [List.getElem?_map, hj]; rfl

/-- Settles O12: the bus looks at the agent first and at the window next. -/
theorem foreignAccessRefused : Obligations.ForeignAccessRefused := by
  intro s agent a rest o
  refine ⟨fun hagent => step_foreign_agent a rest hagent, ?outside⟩
  case outside =>
    rintro rfl hout
    refine step_outside_window rest ?_
    rw [← Bool.not_eq_true, State.inWindow_iff, Config.windowSize]
    omega
end

section
/-! PROOFS. The values after reset, the reset of a running instance, and that a host which keeps to its own aligned
64-bit accesses is never stopped (70_reset_and_hazards.md R220 to R222). -/

namespace Sys2Proof.Machine

/-! ### Accepted accesses complete -/

/-- A write completes at every offset: it performs a command, stores a register, or is ignored (20_memory.md R62). -/
theorem writeOffset_completes (off : Nat) (v : Word) (s : State) : ∃ t, writeOffset off v s = .next t := by
  cases hreg : regAt off with
  | none => exact ⟨s, writeOffset_unmapped v s hreg⟩
  | some r =>
    by_cases hcmd : r = .cmd
    · obtain ⟨t, ht, -⟩ := performCommand_completes v s
      exact ⟨t, by rw [writeOffset, hreg, hcmd, ht]⟩
    · rw [← offset_of_regAt hreg]
      exact ⟨_, writeOffset_offset s r v hcmd⟩

theorem performAccess_completes (a : BusAccess) (s : State) : ∃ t, performAccess a s = .next t := by
  cases a with
  | read addr width => exact ⟨_, rfl⟩
  | write addr width v =>
    obtain ⟨t, ht⟩ := writeOffset_completes (addr - s.base) v s
    exact ⟨_, congrArg (onNext (State.answer .written)) ht⟩

/-! ### Legal inputs -/

/-- The owner's access is legal when it is in the window and one the bus accepts; no other agent's is. -/
theorem State.legalInput_bus_iff (s : State) (agent : Nat) (a : BusAccess) :
    s.legalInput (.bus agent a) = true ↔ agent = s.owner ∧ s.inWindow a.addr = true ∧ s.accepts a = true := by
  simp [State.legalInput, and_assoc]

/-- Which inputs are legal depends on the window's place and the host's number alone. -/
theorem State.legalInput_congr {s t : State} (hbase : t.base = s.base) (howner : t.owner = s.owner) (e : Input) :
    t.legalInput e = s.legalInput e := by
  cases e with
  | bus agent a => simp only [State.legalInput, State.inWindow, State.accepts, hbase, howner]
  | reset inFlight => rfl

theorem step_completes_of_legalInput {s : State} {e : Input} (rest : List Input) (h : s.legalInput e = true) :
    ∃ t, step { s with pending := e :: rest } = .next t := by
  cases e with
  | reset inFlight => exact ⟨_, step_reset s inFlight rest⟩
  | bus agent a =>
    obtain ⟨rfl, hwindow, haccepts⟩ := (s.legalInput_bus_iff agent a).mp h
    rw [step_access s a rest hwindow haccepts]
    exact performAccess_completes a _

theorem State.LegalInputs.step_completes {s : State} (hs : s.LegalInputs) : ∃ t, step s = .next t := by
  cases hp : s.pending with
  | nil => exact ⟨s, by rw [step, hp]⟩
  | cons e rest =>
    have hlegal : s.legalInput e = true := hs e (by simp [hp])
    have hs' : s = { s with pending := e :: rest } := by rw [← hp]
    rw [hs']
    exact step_completes_of_legalInput rest hlegal

/-- A step leaves the rest of the host's program, and the window and the host it is judged by. -/
theorem State.LegalInputs.step {s t : State} (hs : s.LegalInputs) (h : step s = .next t) : t.LegalInputs := by
  obtain ⟨hbase, howner⟩ := step_constants h
  intro e he
  rw [step_pending h] at he
  rw [State.legalInput_congr hbase howner]
  exact hs e (List.mem_of_mem_tail he)

theorem State.LegalInputs.safeFor {s : State} (hs : s.LegalInputs) (n : Nat) : s.SafeFor n := by
  induction n generalizing s with
  | zero => exact ⟨s, rfl⟩
  | succ n ih =>
    obtain ⟨t, ht⟩ := hs.step_completes
    obtain ⟨u, hu⟩ := ih (hs.step ht)
    exact ⟨u, (run_succ_of_step ht).trans hu⟩

/-! ### Reset values -/

theorem getElem_replicate_zero {n w : Nat} (i : Fin n) : (Vector.replicate n (0 : BitVec w))[i] = 0 :=
  Vector.getElem_replicate i.isLt

/-- STATUS after reset says "no comparison", 3 in bits 25 and 24, and nothing else (70_reset_and_hazards.md R220). -/
theorem statusWord_resetAt (base owner : Nat) : (State.resetAt base owner).statusWord = 0x0000000003000000 :=
  calc (State.resetAt base owner).statusWord
      = State.reset.statusWord := rfl
    _ = 0x0000000003000000 := by decide

end Sys2Proof.Machine

open Sys2Proof Sys2Proof.Machine

/-- Settles O49: a legal input completes and leaves the inputs behind it legal, so by induction on its length a run
never stops. -/
theorem legalInputsNeverStop : Obligations.LegalInputsNeverStop := by
  intro s n hs
  exact hs.safeFor n

/-- Settles O15: the arrays are zero entry by entry, ID is its constant, and STATUS is `statusWord_resetAt`. -/
theorem resetValues : Obligations.ResetValues := by
  intro base owner s
  exact ⟨getElem_replicate_zero, rfl, getElem_replicate_zero, rfl, rfl, rfl, rfl, rfl, rfl, rfl, rfl, rfl,
    getElem_replicate_zero, rfl, rfl, rfl, rfl, rfl, rfl, getElem_replicate_zero, getElem_replicate_zero,
    getElem_replicate_zero, rfl, statusWord_resetAt base owner, rfl⟩

/-- Settles O16: `step_reset`, which looks at neither the state nor the access in progress. -/
theorem resetAbandonsCommand : Obligations.ResetAbandonsCommand := by
  intro s inFlight rest
  exact step_reset s inFlight rest
end
